-- ==== Sys2Proof/Word.lean ====
section
/-! DEFINITION. The word types of the GFQR core: a codeword or field element, a payload character, a command word. -/

namespace Sys2Proof

/-- A codeword, a field element, a table entry: 8 bits (rules R19 to R22, R24, R80). -/
abbrev Byte := BitVec 8

/-- One payload character as the host presents it, CHAR_W = 16 bits (rules R8, R23). -/
abbrev Char16 := BitVec 16

/-- One command word of the CMD port, and the width of RES (rules R12, R60). -/
abbrev Word := BitVec 32

end Sys2Proof
end

