-- ==== Sys2Proof/Syntax.lean ====
section
/-! DEFINITION. The 29 commands of rule R63, one constructor per row of spec/opcode_table.json. -/

namespace Sys2Proof

/-- A command of the core. An operand has exactly the width of its field (rules R60, R62): `a` is W[25:16], `b` is
W[15:0], and GFMUL's `b` is already split into x = b[15:8] and y = b[7:0]. So every term of this type is a word the
decoder accepts ("a used field is accepted by the decoder at any value", rule R62); the legal ranges are tests of the
commands themselves. -/
inductive Instr where
  | nop
  | reset
  | rdreg (a : BitVec 10)
  | encode
  | gfinit
  | gfmul (x y : BitVec 8)
  | gfexp (b : BitVec 16)
  | gflog (b : BitVec 16)
  | rsgen (b : BitVec 16)
  | rsclr
  | rsstep (b : BitVec 16)
  | rsrd (a : BitVec 10)
  | genrd (a : BitVec 10)
  | rsenc
  | paywr (a : BitVec 10) (b : BitVec 16)
  | setlen (b : BitVec 16)
  | vsel
  | setver (b : BitVec 16)
  | pack
  | cwrd (a : BitVec 10)
  | cwwr (a : BitVec 10) (b : BitVec 16)
  | payrd (a : BitVec 10)
  | mbuild
  | mrd (a : BitVec 10) (b : BitVec 16)
  | winit
  | wnext
  | place
  | mask
  | fmt
  deriving DecidableEq, Repr

end Sys2Proof
end

