-- ==== Sys2Proof/WellFormed.lean ====
section
/-! DEFINITION. Which raw command words are well formed: the mask and match rows of rules R61 and R63. -/

namespace Sys2Proof

/-- The formats of rule R61: which of the fields a and b a command uses. -/
inductive Format where
  | Z | A | B | AB
  deriving DecidableEq, Repr

/-- The bits that must match, per format (rule R61). -/
def Format.mask : Format → Word
  | .Z => 0xFFFFFFFF#32
  | .A => 0xFC00FFFF#32
  | .B => 0xFFFF0000#32
  | .AB => 0xFC000000#32

/-- One row of the opcode map: the opcode and the format (rule R63). -/
structure OpcodeRow where
  op : BitVec 6
  format : Format
  deriving DecidableEq, Repr

/-- `match = op << 26` (rule R61). -/
def OpcodeRow.matchBits (r : OpcodeRow) : Word := (r.op.zeroExtend 32) <<< 26

/-- "A command is selected when (W & mask) == match" (rule R61). -/
def OpcodeRow.selects (r : OpcodeRow) (w : Word) : Bool := (w &&& r.format.mask) == r.matchBits

/-- System commands and the field engine (rule R63, opcodes 0x00 to 0x0B). -/
def opcodeRowsSystemGf : List OpcodeRow :=
  [⟨0x00, .Z⟩, ⟨0x01, .Z⟩, ⟨0x02, .A⟩, ⟨0x03, .Z⟩, ⟨0x08, .Z⟩, ⟨0x09, .B⟩, ⟨0x0A, .B⟩, ⟨0x0B, .B⟩]

/-- The Reed-Solomon unit (rule R63, opcodes 0x10 to 0x15). -/
def opcodeRowsRs : List OpcodeRow :=
  [⟨0x10, .B⟩, ⟨0x11, .Z⟩, ⟨0x12, .B⟩, ⟨0x13, .A⟩, ⟨0x14, .A⟩, ⟨0x15, .Z⟩]

/-- The packer (rule R63, opcodes 0x18 to 0x1F). -/
def opcodeRowsPacker : List OpcodeRow :=
  [⟨0x18, .AB⟩, ⟨0x19, .B⟩, ⟨0x1A, .Z⟩, ⟨0x1B, .B⟩, ⟨0x1C, .Z⟩, ⟨0x1D, .A⟩, ⟨0x1E, .AB⟩, ⟨0x1F, .A⟩]

/-- Matrix, placement, mask and format units (rule R63, opcodes 0x20 to 0x30). -/
def opcodeRowsMatrix : List OpcodeRow :=
  [⟨0x20, .Z⟩, ⟨0x21, .AB⟩, ⟨0x28, .Z⟩, ⟨0x29, .Z⟩, ⟨0x2A, .Z⟩, ⟨0x2B, .Z⟩, ⟨0x30, .Z⟩]

/-- The whole opcode map, 29 rows (rule R63). -/
def opcodeRows : List OpcodeRow :=
  opcodeRowsSystemGf ++ opcodeRowsRs ++ opcodeRowsPacker ++ opcodeRowsMatrix

/-- A raw command word is well formed when some row selects it. It is ill formed for a reserved opcode (rule R65), for
a nonzero a field in a format Z or B word, and for a nonzero b field in a format Z or A word (rules R61, R66). The
decoder of Decode.lean is written from rule R64 and does not use this check. -/
def Word.wellFormed (w : Word) : Bool := opcodeRows.any (fun r => r.selects w)

end Sys2Proof
end

