-- ==== Sys2Proof/Decode.lean ====
section
/-! DEFINITION. Decoding of command words (rules R60 to R66), total on all 2^32 words, and the encoder. -/

namespace Sys2Proof

/-- op = W[31:26] (rule R60). -/
def fieldOp (w : Word) : BitVec 6 := w.extractLsb' 26 6

/-- a = W[25:16] (rule R60). -/
def fieldA (w : Word) : BitVec 10 := w.extractLsb' 16 10

/-- b = W[15:0] (rule R60). -/
def fieldB (w : Word) : BitVec 16 := w.extractLsb' 0 16

/-- The word with the three fields of rule R60. -/
def packWord (op : BitVec 6) (a : BitVec 10) (b : BitVec 16) : Word := op ++ a ++ b

/-- x = b[15:8] of GFMUL (rule R62). -/
def highByte (b : BitVec 16) : Byte := b.extractLsb' 8 8

/-- y = b[7:0] of GFMUL, and the byte operand of CWWR and RSSTEP (rule R62). -/
def lowByte (b : BitVec 16) : Byte := b.extractLsb' 0 8

/-- Format Z: neither field is used, so both must be zero (rules R61, R64). -/
def formatZ (a : BitVec 10) (b : BitVec 16) (i : Instr) : Option Instr :=
  if a = 0#10 ∧ b = 0#16 then some i else none

/-- Format A: b must be zero (rules R61, R64). -/
def formatA (b : BitVec 16) (i : Instr) : Option Instr := if b = 0#16 then some i else none

/-- Format B: a must be zero (rules R61, R64). -/
def formatB (a : BitVec 10) (i : Instr) : Option Instr := if a = 0#10 then some i else none

/-- Decoding as rule R64 gives it; `none` is an illegal word (rules R65, R66), which the machine turns into
ERR_ILLEGAL. It depends on no state. -/
def decode (w : Word) : Option Instr :=
  let a := fieldA w
  let b := fieldB w
  match (fieldOp w).toNat with
  | 0x00 => formatZ a b .nop
  | 0x01 => formatZ a b .reset
  | 0x02 => formatA b (.rdreg a)
  | 0x03 => formatZ a b .encode
  | 0x08 => formatZ a b .gfinit
  | 0x09 => formatB a (.gfmul (highByte b) (lowByte b))
  | 0x0A => formatB a (.gfexp b)
  | 0x0B => formatB a (.gflog b)
  | 0x10 => formatB a (.rsgen b)
  | 0x11 => formatZ a b .rsclr
  | 0x12 => formatB a (.rsstep b)
  | 0x13 => formatA b (.rsrd a)
  | 0x14 => formatA b (.genrd a)
  | 0x15 => formatZ a b .rsenc
  | 0x18 => some (.paywr a b)
  | 0x19 => formatB a (.setlen b)
  | 0x1A => formatZ a b .vsel
  | 0x1B => formatB a (.setver b)
  | 0x1C => formatZ a b .pack
  | 0x1D => formatA b (.cwrd a)
  | 0x1E => some (.cwwr a b)
  | 0x1F => formatA b (.payrd a)
  | 0x20 => formatZ a b .mbuild
  | 0x21 => some (.mrd a b)
  | 0x28 => formatZ a b .winit
  | 0x29 => formatZ a b .wnext
  | 0x2A => formatZ a b .place
  | 0x2B => formatZ a b .mask
  | 0x30 => formatZ a b .fmt
  | _ => none

/-- The word of a command, from the opcode map of rule R63 and the formats of rule R61. -/
def encode : Instr → Word
  | .nop => packWord 0x00 0 0
  | .reset => packWord 0x01 0 0
  | .rdreg a => packWord 0x02 a 0
  | .encode => packWord 0x03 0 0
  | .gfinit => packWord 0x08 0 0
  | .gfmul x y => packWord 0x09 0 (x ++ y)
  | .gfexp b => packWord 0x0A 0 b
  | .gflog b => packWord 0x0B 0 b
  | .rsgen b => packWord 0x10 0 b
  | .rsclr => packWord 0x11 0 0
  | .rsstep b => packWord 0x12 0 b
  | .rsrd a => packWord 0x13 a 0
  | .genrd a => packWord 0x14 a 0
  | .rsenc => packWord 0x15 0 0
  | .paywr a b => packWord 0x18 a b
  | .setlen b => packWord 0x19 0 b
  | .vsel => packWord 0x1A 0 0
  | .setver b => packWord 0x1B 0 b
  | .pack => packWord 0x1C 0 0
  | .cwrd a => packWord 0x1D a 0
  | .cwwr a b => packWord 0x1E a b
  | .payrd a => packWord 0x1F a 0
  | .mbuild => packWord 0x20 0 0
  | .mrd a b => packWord 0x21 a b
  | .winit => packWord 0x28 0 0
  | .wnext => packWord 0x29 0 0
  | .place => packWord 0x2A 0 0
  | .mask => packWord 0x2B 0 0
  | .fmt => packWord 0x30 0 0

/-- The command word whose bits are the low `nbits` bits of `w`, every bit above them zero. A command is ONE 32-bit
word (rule R60), so the table's bit numbers are the word's own (bit 0 the least significant, rule R9). -/
def tableWord (nbits w : Nat) : Word := BitVec.ofNat 32 (w % 2 ^ nbits)

/-- The command the decoder reads from a row of spec/opcode_table.json written out as a number. -/
def decodeTableWord (nbits w : Nat) : Option Instr := decode (tableWord nbits w)

end Sys2Proof
end

