-- ==== Sys2Proof/Config.lean ====
section
/-! DEFINITION. What an instance of the core fixes: the named parameters of rules R6 and R8, and the store depths. -/

namespace Sys2Proof

/-- The named parameters "the model takes as arguments" (rules R6, R8): the per-version tables CAP, TOTAL, ECC and
ALIGN, indexed by the version, and the 15-bit FORMAT_BITS. They are configuration, not state (rule R11). Every
operation that depends on them takes a `Params`; the machine runs the instance `Machine.params`. -/
structure Params where
  /-- CAP[v], the payload capacity in bytes. -/
  cap : Nat → Nat
  /-- TOTAL[v], all codewords of the symbol. -/
  total : Nat → Nat
  /-- ECC[v], the error-correction codewords. -/
  ecc : Nat → Nat
  /-- ALIGN[v], centre row and centre column of the alignment pattern (v ≥ 2). -/
  align : Nat → Nat
  /-- FORMAT_BITS, bit 0 the least significant (rule R158). -/
  formatBits : BitVec 15

namespace Config

/-- EXP_DEPTH (rule R8): indices 0..510. -/
def expDepth : Nat := 511

/-- LOG has 256 cells (rule R20). -/
def logDepth : Nat := 256

/-- GEN_DEPTH (rule R8). -/
def genDepth : Nat := 256

/-- REG_DEPTH (rule R8). -/
def regDepth : Nat := 255

/-- PAY_DEPTH (rule R8). -/
def payDepth : Nat := 512

/-- CW_DEPTH (rule R8). -/
def cwDepth : Nat := 512

/-- MAT_DIM (rule R8), the side of the largest symbol. -/
def matDim : Nat := 57

end Config

end Sys2Proof
end

