-- ==== Sys2Proof/Machine/State.lean ====
section
/-! DEFINITION. The architectural state (rules R11 to R26), its reset value (rule R28), and the reasons a step stops. -/

namespace Sys2Proof.Machine

/-- One store (rule R40): a list of (index, element) pairs with indices strictly rising and no element equal to the
reset value, which is what an index that is not listed reads as (`Memory.read`, `Memory.wf` in Ops.lean). Two equal
stores are equal lists. Log entry 4. -/
abbrev Memory (α : Type) := List (Nat × α)

/-- The class of a matrix cell (rule R26). -/
inductive CellClass where
  /-- unset -/
  | U
  /-- structural-pattern bit -/
  | S
  /-- reserved but unset -/
  | R
  /-- data or error-correction bit -/
  | D
  /-- reserved cell filled by the format-info injector -/
  | F
  deriving DecidableEq, Repr, Inhabited

/-- A cell of MAT (rule R26): its class and its one-bit value. -/
structure MCell where
  cls : CellClass
  val : Bool
  deriving DecidableEq, Repr, Inhabited

/-- What the host can do to the core (rule R10), apart from reading the ports, which changes nothing (rule R163). -/
inductive HostEvent where
  /-- The host writes a word to the CMD port. -/
  | command (w : Word)
  /-- The host asserts the reset input. -/
  | resetInput
  deriving DecidableEq, Repr

/-- The fault causes (rule R176). A fault of this core is a NEXT state (FAULT and ERR are written, rule R178), never
an outcome that ends the run. -/
inductive FaultCode where
  /-- 0x01 ERR_ILLEGAL: the word is not a command. -/
  | illegal
  /-- 0x02 ERR_SEQ: a flag the command needs is 0. -/
  | seq
  /-- 0x03 ERR_RANGE: an operand is outside the legal range. -/
  | range
  /-- 0x04 ERR_LOG0: the logarithm of zero was asked for. -/
  | log0
  /-- 0x05 ERR_CAPACITY: the payload is too large. -/
  | capacity
  deriving DecidableEq, Repr

/-- The whole state of the core, and the host's pending events. -/
structure State where
  /-- RES, the result register (rule R12). -/
  res : BitVec 32
  /-- LEN, the payload length (rule R12). -/
  len : BitVec 16
  /-- VER, the selected version (rule R12). -/
  ver : BitVec 4
  /-- GENN, the degree of the generator polynomial (rule R12). -/
  genn : BitVec 8
  /-- WRIGHT, the right-hand column of the walker's column pair (rule R14). -/
  wright : BitVec 6
  /-- WI, the walker's step within the pair (rule R14). -/
  wi : BitVec 6
  /-- WJ: the next cell is in the left column of the pair (rule R14). -/
  wj : Bool
  /-- WUP: the pair is walked upward (rule R14). -/
  wup : Bool
  /-- TBLV: EXP and LOG are built (rule R15). -/
  tblv : Bool
  /-- GENV: GEN holds a generator polynomial of degree GENN (rule R15). -/
  genv : Bool
  /-- VERV: VER holds a version (rule R15). -/
  verv : Bool
  /-- MATV: MAT holds a skeleton for VER (rule R15). -/
  matv : Bool
  /-- MASKED: the mask has been applied an odd number of times (rule R15). -/
  masked : Bool
  /-- OVF: the last selection found LEN above every capacity (rule R15). -/
  ovf : Bool
  /-- CHTRUNC: the last PACK truncated a character (rule R15). -/
  chtrunc : Bool
  /-- WACT: the walker has a next cell (rule R15). -/
  wact : Bool
  /-- WDONE: the walker has yielded its last cell (rule R15). -/
  wdone : Bool
  /-- FAULT: a fault has been raised since the last reset (rule R15). -/
  fault : Bool
  /-- ERR, the code of the first fault since the last reset (rule R17). -/
  err : BitVec 8
  /-- EXP, 511 cells (rule R19). -/
  exp : Memory Byte
  /-- LOG, 256 cells (rule R20). -/
  log : Memory Byte
  /-- GEN, 256 cells (rule R21). -/
  gen : Memory Byte
  /-- REG, 255 cells (rule R22). -/
  reg : Memory Byte
  /-- PAY, 512 cells (rule R23). -/
  pay : Memory Char16
  /-- CW, 512 cells (rule R24). -/
  cw : Memory Byte
  /-- MAT, 57 × 57 cells, cell (r, c) at index 57·r + c (rule R25). -/
  mat : Memory MCell
  /-- The model's own field, not the core's: what the host will still write to CMD or do to the reset input, first
  event first (log entry 1). -/
  pending : List HostEvent
  deriving DecidableEq, Repr

/-- No step of this core ends in an outcome outside the state: every fault of the spec is a next state (rules R178,
R179), so there is no reason to list, and the type is empty. Safe: a run that stops nowhere promises nothing more. -/
inductive Fault where
  deriving DecidableEq, Repr

/-- Why an instruction has no meaning. -/
inductive Refusal where
  /-- Raised by the arms of `exec` that have no meaning yet, by the mnemonic of the opcode table; no arm does. Safe. -/
  | notModelled (mnemonic : String)
  deriving DecidableEq, Repr

/-- The state after reset (rules R28, R195): every register, flag and cell zero, every MAT cell (U, 0). Nothing is
pending: the core waits for the first word (rule R196). -/
def State.reset : State where
  res := 0
  len := 0
  ver := 0
  genn := 0
  wright := 0
  wi := 0
  wj := false
  wup := false
  tblv := false
  genv := false
  verv := false
  matv := false
  masked := false
  ovf := false
  chtrunc := false
  wact := false
  wdone := false
  fault := false
  err := 0
  exp := []
  log := []
  gen := []
  reg := []
  pay := []
  cw := []
  mat := []
  pending := []

end Sys2Proof.Machine
end

