-- ==== Sys2Proof/Machine/Ops.lean ====
section
/-! DEFINITION. The shared operations: element access to the stores (rule R41), writing RES, raising a fault (rule
R178) and leaving the fault state (rules R180, R195), the frame every command runs in (rule R164), the host's events. -/

namespace Sys2Proof.Machine

/-! ### Stores -/

/-- What an index that is not listed reads as: the reset value, zero or (U, 0) (rules R28, R195). -/
def unlisted {α : Type} [Inhabited α] : α := default

/-- MemRead (rule R41): the element at an index. -/
def Memory.read {α : Type} [Inhabited α] : Memory α → Nat → α
  | [], _ => unlisted
  | (k, v) :: rest, i => if k = i then v else Memory.read rest i

/-- The store without an entry at `i`. -/
def Memory.erase {α : Type} (m : Memory α) (i : Nat) : Memory α := m.filter (fun e => !(e.1 == i))

/-- MemWrite (rule R41): the element at `i` becomes `v`, nothing else changes, and the canonical form is kept. -/
def Memory.write {α : Type} [Inhabited α] [DecidableEq α] : Memory α → Nat → α → Memory α
  | [], i, v => if v = unlisted then [] else [(i, v)]
  | (k, x) :: rest, i, v =>
    if k < i then (k, x) :: Memory.write rest i v
    else if v = unlisted then Memory.erase ((k, x) :: rest) i
    else (i, v) :: Memory.erase ((k, x) :: rest) i

/-- The canonical form of a store: indices strictly rise and no entry holds the value of an unlisted index. -/
def Memory.wf {α : Type} [Inhabited α] [DecidableEq α] (m : Memory α) : Bool :=
  decide (m.Pairwise (fun x y => x.1 < y.1)) && m.all (fun e => !decide (e.2 = unlisted))

/-- Every listed index is below the store's depth (rule R40). -/
def Memory.within {α : Type} (depth : Nat) (m : Memory α) : Bool := m.all (fun e => decide (e.1 < depth))

/-! ### Index ranges of the pseudocode (rule R9) -/

/-- `for i in a..b`: a up to b inclusive, empty when b < a. -/
def upTo (a b : Nat) : List Nat := List.range' a (b + 1 - a)

/-- `for i in b downto a`. -/
def downTo (b a : Nat) : List Nat := (upTo a b).reverse

/-! ### Registers, faults, reset -/

/-- `RES <- v`. -/
def State.setRes (s : State) (v : Word) : State := { s with res := v }

/-- The code ERR records (rule R176). -/
def FaultCode.code : FaultCode → BitVec 8
  | .illegal => 0x01#8
  | .seq => 0x02#8
  | .range => 0x03#8
  | .log0 => 0x04#8
  | .capacity => 0x05#8

/-- Taking a fault (rule R178): FAULT and ERR are written, nothing else changes. -/
def raiseFault (k : FaultCode) (s : State) : State := { s with fault := true, err := k.code }

/-- The return from the fault state, by the RESET command or the reset input (rules R161, R180, R195): every piece of
the core's state takes its reset value. What the host has still to write is not the core's and stays. -/
def resetCore (s : State) : State := { State.reset with pending := s.pending }

/-- One command from its tests and its effect (rules R164, R178, R179): ignored while FAULT = 1; otherwise the first
test that holds raises its fault and nothing else happens; otherwise the effect is performed to completion. -/
def command (tests : List (Bool × FaultCode)) (effect : State → State) (s : State) :
    Host.Outcome State Fault Refusal :=
  if s.fault then .next s
  else match tests.find? (fun t => t.1) with
    | some t => .next (raiseFault t.2 s)
    | none => .next (effect s)

/-- An illegal word (rules R66, R164 step 3): ERR_ILLEGAL while FAULT = 0, ignored while FAULT = 1. -/
def illegalWord (s : State) : Host.Outcome State Fault Refusal := command [(true, .illegal)] id s

/-! ### The host -/

/-- The host's next event and the state once it has happened; `none` when the host does nothing. -/
def nextEvent (s : State) : Option (HostEvent × State) :=
  match s.pending with
  | [] => none
  | e :: rest => some (e, { s with pending := rest })

/-- One step of a core whose commands run by `run` (rule R164): the host's next event happens. A word written to CMD is
executed as one command, or is illegal (rule R66); the reset input is the operation of RESET (rule R195); with no event
the core holds its state (rules R190, R196). The tests of FAULT stand in the commands themselves (`command`). -/
def hostStep (run : Instr → State → Host.Outcome State Fault Refusal) (s : State) :
    Host.Outcome State Fault Refusal :=
  match nextEvent s with
  | none => .next s
  | some (.resetInput, t) => .next (resetCore t)
  | some (.command w, t) =>
    match decode w with
    | some i => run i t
    | none => illegalWord t

/-- The host is about to write `w` to CMD, before anything else it has still to do. -/
def State.withCommand (s : State) (w : Word) : State := { s with pending := .command w :: s.pending }

end Sys2Proof.Machine
end

