-- ==== Sys2Proof/Machine/Flags.lean ====
section
/-! DEFINITION. The flags (rule R15) as the host sees them: STATUS, ERR and the ports; and the one group write of flags
that every write of VER makes. -/

namespace Sys2Proof.Machine

/-- STATUS (rule R16): bit 0 TBLV up to bit 8 WDONE, bits 14:9 zero, bit 15 FAULT. -/
def State.status (s : State) : BitVec 16 :=
  BitVec.ofBool s.fault ++ 0#6 ++ BitVec.ofBool s.wdone ++ BitVec.ofBool s.wact ++ BitVec.ofBool s.chtrunc ++
    BitVec.ofBool s.ovf ++ BitVec.ofBool s.masked ++ BitVec.ofBool s.matv ++ BitVec.ofBool s.verv ++
    BitVec.ofBool s.genv ++ BitVec.ofBool s.tblv

/-- The three ports the host reads (rule R163); reading has no side effect. -/
structure Ports where
  res : BitVec 32
  status : BitVec 16
  err : BitVec 8
  deriving DecidableEq, Repr

/-- What the ports show, at any time, also while FAULT = 1 (rules R163, R179). -/
def State.ports (s : State) : Ports := { res := s.res, status := s.status, err := s.err }

/-- A write of VER (rules R109, R111): VERV is set, OVF written, the matrix and the walker are no longer valid. -/
def writeVersion (v : BitVec 4) (ovf : Bool) (s : State) : State :=
  { s with
    ver := v, verv := true, ovf := ovf, matv := false, masked := false, wact := false, wdone := false,
    wright := 0, wi := 0, wj := false, wup := false }

end Sys2Proof.Machine
end

