-- ==== Sys2Proof/Machine/Params.lean ====
section
/-! DEFINITION. The default parameters of rules R6 and R8, the constraints of rule R7, and what the version fixes. -/

namespace Sys2Proof

/-- LBITS(v): the width of the length indicator (rules R5, R110). -/
def lbits (v : Nat) : Nat := if v ≤ 9 then 8 else 16

/-- size(v) = 17 + 4·v (rules R5, R110). -/
def side (v : Nat) : Nat := 17 + 4 * v

/-- DATA[v] = TOTAL[v] − ECC[v] (rules R6, R110). -/
def Params.data (P : Params) (v : Nat) : Nat := P.total v - P.ecc v

/-- The ten versions (rule R5). -/
def versions : List Nat := List.range' 1 10

/-- P1 of rule R7: the two capacities the document prints. -/
def Params.capAnchors (P : Params) : Bool := P.cap 1 == 17 && P.cap 10 == 271

/-- P2 of rule R7: CAP never decreases. -/
def Params.capMonotone (P : Params) : Bool := (List.range' 1 9).all (fun v => decide (P.cap v ≤ P.cap (v + 1)))

/-- P3 of rule R7: a payload that fits the capacity fits the bit budget. -/
def Params.budget (P : Params) : Bool :=
  versions.all (fun v => decide (4 + lbits v + 8 * P.cap v ≤ 8 * P.data v))

/-- P4 of rule R7: the counts of codewords. -/
def Params.counts (P : Params) : Bool :=
  versions.all (fun v => decide (1 ≤ P.ecc v ∧ P.ecc v ≤ 255 ∧ 1 ≤ P.data v ∧
    P.total v = P.data v + P.ecc v ∧ P.total v ≤ Config.cwDepth))

/-- P5 of rule R7: the alignment pattern lies in the grid. -/
def Params.alignInGrid (P : Params) : Bool :=
  (List.range' 2 9).all (fun v => decide (2 ≤ P.align v ∧ P.align v ≤ side v - 3))

/-- The constraints "every instance must meet" (rule R7, P1 to P5). The rules say nothing of an instance that breaks
them; theorems about a general instance take this as a hypothesis (U8 of 93_implementation_defined.md). -/
def Params.ok (P : Params) : Bool :=
  P.capAnchors && P.capMonotone && P.budget && P.counts && P.alignInGrid

namespace Machine

/-- CAP[v] (rule R6, default column). -/
def defaultCap : Nat → Nat
  | 1 => 17
  | 2 => 32
  | 3 => 53
  | 4 => 78
  | 5 => 106
  | 6 => 134
  | 7 => 154
  | 8 => 192
  | 9 => 230
  | 10 => 271
  | _ => 0

/-- TOTAL[v] (rule R6, default column). -/
def defaultTotal : Nat → Nat
  | 1 => 26
  | 2 => 44
  | 3 => 70
  | 4 => 100
  | 5 => 134
  | 6 => 172
  | 7 => 196
  | 8 => 242
  | 9 => 292
  | 10 => 346
  | _ => 0

/-- ECC[v] (rule R6, default column). -/
def defaultEcc : Nat → Nat
  | 1 => 7
  | 2 => 10
  | 3 => 15
  | 4 => 20
  | 5 => 26
  | 6 => 36
  | 7 => 40
  | 8 => 48
  | 9 => 60
  | 10 => 72
  | _ => 0

/-- ALIGN[v] (rule R6, default column). -/
def defaultAlign (v : Nat) : Nat := 4 * v + 10

/-- The instance `exec`, `step` and `core` run (`execOf`, `stepOf`, `coreOf` of Parametric.lean take any): the defaults
of rules R6 and R8, which the spec itself marks as general knowledge (decisions D18, D19, D24). PRESUMED, log entries 2
and 3. -/
def params : Params where
  cap := defaultCap
  total := defaultTotal
  ecc := defaultEcc
  align := defaultAlign
  formatBits := 0x77C4#15

end Machine

end Sys2Proof
end

