-- ==== Sys2Proof/Machine/Operands.lean ====
section
/-! DEFINITION. The operand forms: legal ranges (rules R62, R177), the registers RDREG names (rules R12, R162), and the
quantities a version gives its commands (rule R110). -/

namespace Sys2Proof.Machine

/-- `size = 17 + 4·VER` (rule R9). -/
def State.size (s : State) : Nat := side s.ver.toNat

/-- WALK = {WUP, WJ, WRIGHT[5:0], WI[5:0]} (rules R12, R162). -/
def State.walk (s : State) : BitVec 14 :=
  BitVec.ofBool s.wup ++ BitVec.ofBool s.wj ++ s.wright ++ s.wi

/-- SIZE: 17 + 4·VER when VERV = 1, else 0; 6 bits (rules R12, R162). -/
def State.sizeReg (s : State) : BitVec 6 := if s.verv then BitVec.ofNat 6 s.size else 0#6

/-- The register RDREG k copies, widened with zeros (rule R162). Numbers above 6 are stopped by the range test. -/
def State.register (s : State) : Nat → Word
  | 0 => s.status.setWidth 32
  | 1 => s.err.setWidth 32
  | 2 => s.len.setWidth 32
  | 3 => s.ver.setWidth 32
  | 4 => s.genn.setWidth 32
  | 5 => s.walk.setWidth 32
  | 6 => s.sizeReg.setWidth 32
  | _ => 0

/-- A field test of rule R177: the operand is above `limit`. -/
def above {w : Nat} (x : BitVec w) (limit : Nat) : Bool := decide (limit < x.toNat)

/-- A field test of rule R177: the operand is at or beyond `bound`. -/
def atOrBeyond {w : Nat} (x : BitVec w) (bound : Nat) : Bool := decide (bound ≤ x.toNat)

/-- A field test of rule R177: the operand is zero. -/
def isZero {w : Nat} (x : BitVec w) : Bool := decide (x.toNat = 0)

end Sys2Proof.Machine
end

