-- ==== Sys2Proof/Machine/Matrix.lean ====
section
/-! DEFINITION. The module-matrix builder: MBUILD, MRD (rules R125 to R135), and the cells of the format strips (rule
R157), which MBUILD reserves and FMT fills. -/

namespace Sys2Proof.Machine

/-! ### Cells -/

/-- The index of cell (row, column) in the store MAT (rules R25, R41). -/
def cellIndex (r c : Nat) : Nat := Config.matDim * r + c

/-- `MAT[r][c]`. -/
def cellAt (mat : Memory MCell) (r c : Nat) : MCell := Memory.read mat (cellIndex r c)

/-- `MAT[r][c] <- x`. -/
def putCell (mat : Memory MCell) (r c : Nat) (x : MCell) : Memory MCell := Memory.write mat (cellIndex r c) x

/-- `MAT[r][c] <- x` where the cell is unset (the "only where not already claimed" of rules R129, R131, R132). -/
def claimCell (mat : Memory MCell) (r c : Nat) (x : MCell) : Memory MCell :=
  if (cellAt mat r c).cls = .U then putCell mat r c x else mat

/-- The cells of an n × n square in row-major order. -/
def square (n : Nat) : List (Nat × Nat) := (List.range n).flatMap (fun r => (List.range n).map (fun c => (r, c)))

/-- The class codes MRD returns (rule R26). -/
def CellClass.code : CellClass → BitVec 3
  | .U => 0
  | .S => 1
  | .R => 2
  | .D => 3
  | .F => 4

/-- `{cls[2:0], val}` (rules R47, R134). -/
def MCell.bits (x : MCell) : BitVec 4 := x.cls.code ++ BitVec.ofBool x.val

/-! ### The stamps -/

/-- The offsets lo..hi around a cell. -/
def offsets (lo hi : Int) : List (Int × Int) :=
  let line := (List.range (hi - lo + 1).toNat).map (fun i => lo + Int.ofNat i)
  line.flatMap (fun dr => line.map (fun dc => (dr, dc)))

/-- The value of a finder with its separator at an offset from the finder's top-left cell (rules R127, R128). -/
def finderModule (dr dc : Int) : Bool :=
  let inside := decide (0 ≤ dr ∧ dr ≤ 6) && decide (0 ≤ dc ∧ dc ≤ 6)
  inside && (decide (dr = 0 ∨ dr = 6 ∨ dc = 0 ∨ dc = 6) || decide (2 ≤ dr ∧ dr ≤ 4 ∧ 2 ≤ dc ∧ dc ≤ 4))

/-- stampFinder(r0, c0) (rule R128): the 9 × 9 footprint clipped to the grid. -/
def stampFinder (n r0 c0 : Nat) (mat : Memory MCell) : Memory MCell :=
  (offsets (-1) 7).foldl (fun m d =>
    let r := Int.ofNat r0 + d.1
    let c := Int.ofNat c0 + d.2
    if 0 ≤ r ∧ r < Int.ofNat n ∧ 0 ≤ c ∧ c < Int.ofNat n then
      putCell m r.toNat c.toNat { cls := .S, val := finderModule d.1 d.2 }
    else m) mat

/-- stampTiming() (rule R129): row 6, then column 6, at each index. -/
def stampTiming (n : Nat) (mat : Memory MCell) : Memory MCell :=
  (List.range n).foldl (fun m i =>
    let x : MCell := { cls := .S, val := decide (i % 2 = 0) }
    claimCell (claimCell m 6 i x) i 6 x) mat

/-- stampDark() (rule R130). -/
def stampDark (n : Nat) (mat : Memory MCell) : Memory MCell := putCell mat (n - 8) 8 { cls := .S, val := true }

/-- stampAlign(pr, pc) (rule R131): 0 at distance 1 from the centre, else 1, only on unset cells of the grid. -/
def stampAlign (n pr pc : Nat) (mat : Memory MCell) : Memory MCell :=
  (offsets (-2) 2).foldl (fun m d =>
    let r := Int.ofNat pr + d.1
    let c := Int.ofNat pc + d.2
    if 0 ≤ r ∧ r < Int.ofNat n ∧ 0 ≤ c ∧ c < Int.ofNat n then
      claimCell m r.toNat c.toNat { cls := .S, val := !decide (max d.1.natAbs d.2.natAbs = 1) }
    else m) mat

/-- pos1(i), the cell of format bit i in the first strip (rule R157). -/
def formatPos1 (i : Nat) : Nat × Nat :=
  if i ≤ 5 then (i, 8) else if i = 6 then (7, 8) else if i = 7 then (8, 8) else if i = 8 then (8, 7) else (8, 14 - i)

/-- pos2(i), the cell of format bit i in the second strip (rule R157). -/
def formatPos2 (n i : Nat) : Nat × Nat := if i ≤ 7 then (8, n - 1 - i) else (n - 15 + i, 8)

/-- The 30 format cells with the bit each one shows, in the order FMT writes them (rules R132, R156, R157). -/
def formatCells (n : Nat) : List (Nat × (Nat × Nat)) :=
  (upTo 0 14).flatMap (fun i => [(i, formatPos1 i), (i, formatPos2 n i)])

/-- reserveFormat() (rule R132). -/
def reserveFormat (n : Nat) (mat : Memory MCell) : Memory MCell :=
  (formatCells n).foldl (fun m e => claimCell m e.2.1 e.2.2 { cls := .R, val := false }) mat

/-- Step 1 of rule R126: every cell of the square becomes unset. -/
def clearSquare (n : Nat) (mat : Memory MCell) : Memory MCell :=
  (square n).foldl (fun m p => putCell m p.1 p.2 { cls := .U, val := false }) mat

/-- MAT after MBUILD for version v (rule R126, steps 1 to 6 in this order). -/
def buildSkeleton (P : Params) (v : Nat) (mat : Memory MCell) : Memory MCell :=
  let n := side v
  let m := clearSquare n mat
  let m := stampFinder n (n - 7) 0 (stampFinder n 0 (n - 7) (stampFinder n 0 0 m))
  let m := stampDark n (stampTiming n m)
  let m := if 2 ≤ v then stampAlign n (P.align v) (P.align v) m else m
  reserveFormat n m

/-! ### The commands -/

/-- What MBUILD does (rule R126). -/
def mbuildEffect (P : Params) (s : State) : State :=
  { s with mat := buildSkeleton P s.ver.toNat s.mat, matv := true, masked := false }

/-- MBUILD of the core with parameters P (rule R126). -/
def execMbuildOf (P : Params) (s : State) : Host.Outcome State Fault Refusal :=
  command [(!s.verv, .seq)] (mbuildEffect P) s

/-- MBUILD, at the default parameters. -/
def execMbuild (s : State) : Host.Outcome State Fault Refusal := execMbuildOf params s

/-- MRD row, col (rule R134). -/
def execMrd (a : BitVec 10) (b : BitVec 16) (s : State) : Host.Outcome State Fault Refusal :=
  command [(!s.matv, .seq), (atOrBeyond a s.size || atOrBeyond b s.size, .range)]
    (fun s => s.setRes ((cellAt s.mat a.toNat b.toNat).bits.setWidth 32)) s

end Sys2Proof.Machine
end

