-- ==== Sys2Proof/Machine/Format.lean ====
section
/-! DEFINITION. The format-information injector: FMT (rules R155 to R159). -/

namespace Sys2Proof.Machine

/-- `fbit(i) = (FORMAT_BITS >> i) & 1` (rule R156). -/
def formatBit (P : Params) (i : Nat) : Bool := P.formatBits.getLsbD i

/-- One cell of rule R156: a reserved cell, filled already or not, takes the bit; any other cell is left alone. -/
def fillFormatCell (P : Params) (mat : Memory MCell) (e : Nat × (Nat × Nat)) : Memory MCell :=
  let x := cellAt mat e.2.1 e.2.2
  if x.cls = .R ∨ x.cls = .F then putCell mat e.2.1 e.2.2 { cls := .F, val := formatBit P e.1 } else mat

/-- What FMT does (rule R156). -/
def fmtEffect (P : Params) (s : State) : State :=
  { s with mat := (formatCells s.size).foldl (fillFormatCell P) s.mat }

/-- FMT of the core with parameters P (rule R156). -/
def execFmtOf (P : Params) (s : State) : Host.Outcome State Fault Refusal := command [(!s.matv, .seq)] (fmtEffect P) s

/-- FMT, at the default parameters. -/
def execFmt (s : State) : Host.Outcome State Fault Refusal := execFmtOf params s

end Sys2Proof.Machine
end

