-- ==== Sys2Proof/Machine/Packer.lean ====
section
/-! DEFINITION. The capacity selector and bit-stream packer: PAYWR, PAYRD, SETLEN, VSEL, SETVER, PACK, CWRD, CWWR
(rules R105 to R118). -/

namespace Sys2Proof.Machine

/-! ### Version selection -/

/-- The loop of rule R109, `for t in 10 downto 1: if LEN <= CAP[t] then v <- t; ovf <- 0`, from v = 10 and ovf = 1. -/
def selectVersion (P : Params) (len : Nat) : Nat × Bool :=
  (downTo 10 1).foldl (fun r t => if len ≤ P.cap t then (t, false) else r) (10, true)

/-- What VSEL does (rule R109). -/
def vselEffect (P : Params) (s : State) : State :=
  let r := selectVersion P s.len.toNat
  (writeVersion (BitVec.ofNat 4 r.1) r.2 s).setRes (BitVec.ofNat 32 r.1)

/-! ### The bit stream -/

/-- `append(S, x, w)`: the w low bits of x, bit w−1 first (rules R44, R113). -/
def bitsMsbFirst (x w : Nat) : List Bool := (List.range w).map (fun j => x.testBit (w - 1 - j))

/-- p[k] = PAY[k][7:0] (rules R112, R114). -/
def payloadByte (pay : Memory Char16) (k : Nat) : Byte := (Memory.read pay k).setWidth 8

/-- The mode indicator, the length indicator and the payload (rule R112, items 1 to 3). -/
def streamContent (v len : Nat) (pay : Memory Char16) : List Bool :=
  bitsMsbFirst 0b0100 4 ++ bitsMsbFirst len (lbits v) ++
    (List.range len).flatMap (fun k => bitsMsbFirst (payloadByte pay k).toNat 8)

/-- The terminator, `min(4, B − |S|)` zero bits (rule R112, item 4). -/
def withTerminator (budget : Nat) (stream : List Bool) : List Bool :=
  stream ++ List.replicate (min 4 (budget - stream.length)) false

/-- Zero bits up to the next multiple of 8 (rule R112, item 5). -/
def toByteBoundary (stream : List Bool) : List Bool :=
  stream ++ List.replicate ((8 - stream.length % 8) % 8) false

/-- Pad byte number q: 0xEC, 0x11, 0xEC, ... (rule R112, item 6). -/
def padByte (q : Nat) : Byte := if q % 2 = 0 then 0xEC#8 else 0x11#8

/-- `while |S| < B: append a pad byte` (rules R112 item 6, R113): one byte for every eight bits still missing. -/
def withPadBytes (budget : Nat) (stream : List Bool) : List Bool :=
  stream ++ (List.range ((budget - stream.length + 7) / 8)).flatMap (fun q => bitsMsbFirst (padByte q).toNat 8)

/-- The bit stream of rule R112 for version v, `len` characters and a budget of 8·DATA[v] bits. -/
def bitStream (P : Params) (v len : Nat) (pay : Memory Char16) : List Bool :=
  let budget := 8 * P.data v
  withPadBytes budget (toByteBoundary (withTerminator budget (streamContent v len pay)))

/-- The byte whose bit 7 is stream bit 8k and whose bit 0 is stream bit 8k+7 (rules R44, R113). -/
def sliceByte (stream : List Bool) (k : Nat) : Byte :=
  BitVec.ofNat 8 (((stream.drop (8 * k)).take 8).foldl (fun x b => 2 * x + b.toNat) 0)

/-- Some used character is above 255 (rule R113, `trunc`). -/
def anyTruncated (len : Nat) (pay : Memory Char16) : Bool :=
  (List.range len).any (fun k => decide (255 < (Memory.read pay k).toNat))

/-- What PACK does (rule R113): the data segment is written, nothing above it. -/
def packEffect (P : Params) (s : State) : State :=
  let v := s.ver.toNat
  let stream := bitStream P v s.len.toNat s.pay
  { s with
    cw := (List.range (P.data v)).foldl (fun c k => Memory.write c k (sliceByte stream k)) s.cw
    chtrunc := anyTruncated s.len.toNat s.pay }

/-! ### The commands -/

/-- PAYWR k, ch (rule R106). -/
def execPaywr (a : BitVec 10) (b : BitVec 16) (s : State) : Host.Outcome State Fault Refusal :=
  command [(above a 511, .range)] (fun s => { s with pay := Memory.write s.pay a.toNat b }) s

/-- PAYRD k (rule R107). -/
def execPayrd (a : BitVec 10) (s : State) : Host.Outcome State Fault Refusal :=
  command [(above a 511, .range)] (fun s => s.setRes ((Memory.read s.pay a.toNat).setWidth 32)) s

/-- SETLEN n (rule R108). -/
def execSetlen (b : BitVec 16) (s : State) : Host.Outcome State Fault Refusal :=
  command [] (fun s => { s with len := b }) s

/-- VSEL of the core with parameters P (rule R109). -/
def execVselOf (P : Params) (s : State) : Host.Outcome State Fault Refusal := command [] (vselEffect P) s

/-- VSEL, at the default parameters. -/
def execVsel (s : State) : Host.Outcome State Fault Refusal := execVselOf params s

/-- SETVER v (rule R111). -/
def execSetver (b : BitVec 16) (s : State) : Host.Outcome State Fault Refusal :=
  command [(isZero b || above b 10, .range)] (writeVersion (b.setWidth 4) false) s

/-- PACK of the core with parameters P (rule R113). -/
def execPackOf (P : Params) (s : State) : Host.Outcome State Fault Refusal :=
  command [(!s.verv, .seq), (above s.len (P.cap s.ver.toNat), .capacity)] (packEffect P) s

/-- PACK, at the default parameters. -/
def execPack (s : State) : Host.Outcome State Fault Refusal := execPackOf params s

/-- CWRD k (rule R117). -/
def execCwrd (a : BitVec 10) (s : State) : Host.Outcome State Fault Refusal :=
  command [(above a 511, .range)] (fun s => s.setRes ((Memory.read s.cw a.toNat).setWidth 32)) s

/-- CWWR k, v (rule R118). -/
def execCwwr (a : BitVec 10) (b : BitVec 16) (s : State) : Host.Outcome State Fault Refusal :=
  command [(above a 511 || above b 255, .range)] (fun s => { s with cw := Memory.write s.cw a.toNat (b.setWidth 8) }) s

end Sys2Proof.Machine
end

