-- ==== Sys2Proof/Machine/Placement.lean ====
section
/-! DEFINITION. Data and error-correction placement and the checkerboard mask: WINIT, WNEXT, PLACE, MASK (rules R140 to
R148). -/

namespace Sys2Proof.Machine

/-! ### The traversal -/

/-- The column a pair starts at: "if right = 6 then right <- 5" (rule R141). -/
def skipTiming (right : Nat) : Nat := if right = 6 then 5 else right

/-- The cells of one column pair, right column before left at each row (rule R141). -/
def pairCells (n right : Nat) (up : Bool) : List (Nat × Nat) :=
  (List.range n).flatMap (fun i =>
    let row := if up then n - 1 - i else i
    [(row, right), (row, right - 1)])

/-- The loop of rule R141 from a right-hand column and a direction; every turn lowers the column, so `fuel` turns are
enough when the column is below it. -/
def walkFrom (n : Nat) : Nat → Nat → Bool → List (Nat × Nat)
  | 0, _, _ => []
  | fuel + 1, right, up =>
    if right = 0 then []
    else pairCells n (skipTiming right) up ++ walkFrom n fuel (skipTiming right - 2) (!up)

/-- walk(n) (rule R141): the visiting order of an n × n symbol. -/
def walk (n : Nat) : List (Nat × Nat) := walkFrom n n (n - 1) true

/-- What WINIT does (rule R142). -/
def winitEffect (s : State) : State :=
  { s with
    wright := BitVec.ofNat 6 (s.size - 1), wi := 0, wj := false, wup := true, wact := true, wdone := false }

/-- The row of the walker's next cell (rules R14, R143). -/
def State.walkRow (s : State) : Nat := if s.wup then s.size - 1 - s.wi.toNat else s.wi.toNat

/-- The column of the walker's next cell, WRIGHT − WJ (rules R14, R143). -/
def State.walkCol (s : State) : Nat := s.wright.toNat - s.wj.toNat

/-- The walker after the last cell of a column pair (rule R143, the innermost branches). -/
def nextPair (s : State) : State :=
  let turned := { s with wj := false, wi := 0, wup := !s.wup }
  if s.wright.toNat = 1 then { turned with wact := false, wdone := true }
  else { turned with wright := BitVec.ofNat 6 (skipTiming (s.wright.toNat - 2)) }

/-- The walker moves on (rule R143). -/
def advanceWalker (s : State) : State :=
  if s.wj = false then { s with wj := true }
  else if s.wi.toNat < s.size - 1 then { s with wj := false, wi := s.wi + 1 }
  else nextPair s

/-- What WNEXT does (rule R143): `RES <- (row << 8) | col`, then the walker moves on. -/
def wnextEffect (s : State) : State :=
  advanceWalker (s.setRes ((BitVec.ofNat 32 s.walkRow <<< 8) ||| BitVec.ofNat 32 s.walkCol))

/-! ### Placement -/

/-- Bit number p of the flattened codewords: bit 8k + j is CW[k][7−j] (rules R43, R140). -/
def codewordBit (cw : Memory Byte) (p : Nat) : Bool := (Memory.read cw (p / 8)).getLsbD (7 - p % 8)

/-- One visited cell of rule R144: an unset cell takes the next bit, 0 once the T bits are exhausted (rule R145). -/
def placeCell (cw : Memory Byte) (T : Nat) (acc : Memory MCell × Nat) (p : Nat × Nat) : Memory MCell × Nat :=
  if (cellAt acc.1 p.1 p.2).cls = .U then
    (putCell acc.1 p.1 p.2 { cls := .D, val := if acc.2 < T then codewordBit cw acc.2 else false }, acc.2 + 1)
  else acc

/-- MAT after PLACE with T = 8·TOTAL[VER] bits in an n × n symbol (rule R144). -/
def placeBits (cw : Memory Byte) (T n : Nat) (mat : Memory MCell) : Memory MCell :=
  ((walk n).foldl (placeCell cw T) (mat, 0)).1

/-- What PLACE does (rule R144); the walker is left as the last WNEXT of a traversal leaves it. -/
def placeEffect (P : Params) (s : State) : State :=
  { s with
    mat := placeBits s.cw (8 * P.total s.ver.toNat) s.size s.mat
    wright := 1, wi := 0, wj := false, wup := true, wact := false, wdone := true }

/-! ### The mask -/

/-- One cell of rule R146: a class D cell with row + column even is flipped. -/
def maskCell (mat : Memory MCell) (p : Nat × Nat) : Memory MCell :=
  let x := cellAt mat p.1 p.2
  if x.cls = .D ∧ (p.1 + p.2) % 2 = 0 then putCell mat p.1 p.2 { cls := .D, val := !x.val } else mat

/-- What MASK does (rule R146). -/
def maskEffect (s : State) : State :=
  { s with mat := (square s.size).foldl maskCell s.mat, masked := !s.masked }

/-! ### The commands -/

/-- WINIT (rule R142). -/
def execWinit (s : State) : Host.Outcome State Fault Refusal := command [(!s.verv, .seq)] winitEffect s

/-- WNEXT (rule R143). -/
def execWnext (s : State) : Host.Outcome State Fault Refusal := command [(!s.wact, .seq)] wnextEffect s

/-- PLACE of the core with parameters P (rule R144). -/
def execPlaceOf (P : Params) (s : State) : Host.Outcome State Fault Refusal :=
  command [(!s.matv, .seq)] (placeEffect P) s

/-- PLACE, at the default parameters. -/
def execPlace (s : State) : Host.Outcome State Fault Refusal := execPlaceOf params s

/-- MASK (rule R146). -/
def execMask (s : State) : Host.Outcome State Fault Refusal := command [(!s.matv, .seq)] maskEffect s

end Sys2Proof.Machine
end

