-- ==== Sys2Proof/Machine/Gf.lean ====
section
/-! DEFINITION. The Galois-field exponent/logarithm engine: GFINIT, GFMUL, GFLOG, GFEXP (rules R80 to R87). -/

namespace Sys2Proof.Machine

/-- "double x (left-shift one bit)", folded with 0x11D when bit 8 became set (rule R81). -/
def gfDouble (x : BitVec 9) : BitVec 9 :=
  let y := x <<< 1
  if y.getLsbD 8 then y ^^^ 0x11D#9 else y

/-- The working value and the two tables of the first loop of rule R81. -/
structure TableBuild where
  x : BitVec 9
  exp : Memory Byte
  log : Memory Byte

/-- One turn of the first loop of rule R81. -/
def tableTurn (t : TableBuild) (i : Nat) : TableBuild :=
  { x := gfDouble t.x
    exp := Memory.write t.exp i (t.x.setWidth 8)
    log := Memory.write t.log (t.x.setWidth 8).toNat (BitVec.ofNat 8 i) }

/-- The second loop of rule R81: `EXP[i] <- EXP[i − 255]` for i in 255..510. -/
def mirrorTable (exp : Memory Byte) : Memory Byte :=
  (upTo 255 510).foldl (fun e i => Memory.write e i (Memory.read e (i - 255))) exp

/-- Both tables of rule R81, built over what EXP and LOG hold. -/
def buildTables (exp log : Memory Byte) : Memory Byte × Memory Byte :=
  let t := (upTo 0 254).foldl tableTurn { x := 1#9, exp := exp, log := log }
  (mirrorTable t.exp, t.log)

/-- `gfmul(a, b)` (rule R82), from the tables EXP and LOG: the zero test comes first, the sum of the logarithms is the
index, unreduced. -/
def gfmul (exp log : Memory Byte) (a b : Byte) : Byte :=
  if a = 0#8 ∨ b = 0#8 then 0#8
  else Memory.read exp ((Memory.read log a.toNat).toNat + (Memory.read log b.toNat).toNat)

/-- What GFINIT does (rule R81). -/
def gfinitEffect (s : State) : State :=
  let t := buildTables s.exp s.log
  { s with exp := t.1, log := t.2, tblv := true }

/-- GFINIT (rule R81). -/
def execGfinit (s : State) : Host.Outcome State Fault Refusal := command [] gfinitEffect s

/-- GFMUL x, y (rule R83). -/
def execGfmul (x y : BitVec 8) (s : State) : Host.Outcome State Fault Refusal :=
  command [(!s.tblv, .seq)] (fun s => s.setRes ((gfmul s.exp s.log x y).setWidth 32)) s

/-- GFLOG v (rule R84): the tests in the order ERR_SEQ, ERR_RANGE, ERR_LOG0. -/
def execGflog (b : BitVec 16) (s : State) : Host.Outcome State Fault Refusal :=
  command [(!s.tblv, .seq), (above b 255, .range), (isZero b, .log0)]
    (fun s => s.setRes ((Memory.read s.log b.toNat).setWidth 32)) s

/-- GFEXP i (rule R85). -/
def execGfexp (b : BitVec 16) (s : State) : Host.Outcome State Fault Refusal :=
  command [(!s.tblv, .seq), (above b 510, .range)]
    (fun s => s.setRes ((Memory.read s.exp b.toNat).setWidth 32)) s

end Sys2Proof.Machine
end

