-- ==== Sys2Proof/Machine/Rs.lean ====
section
/-! DEFINITION. The Reed-Solomon polynomial-division encoder: RSGEN, RSCLR, RSSTEP, RSRD, GENRD, RSENC (rules R90 to
R97). -/

namespace Sys2Proof.Machine

/-- `GEN[0] <- 1; for j in 1..n: GEN[j] <- 0` (rule R91). -/
def startGenerator (n : Nat) (gen : Memory Byte) : Memory Byte :=
  (upTo 1 n).foldl (fun g j => Memory.write g j 0#8) (Memory.write gen 0 1#8)

/-- Multiplying the polynomial in GEN by (x − 2^i): `for j in i+1 downto 1: GEN[j] <- GEN[j] ^ gfmul(GEN[j−1], EXP[i])`
(rule R91). -/
def multiplyByRoot (exp log gen : Memory Byte) (i : Nat) : Memory Byte :=
  (downTo (i + 1) 1).foldl
    (fun g j => Memory.write g j (Memory.read g j ^^^ gfmul exp log (Memory.read g (j - 1)) (Memory.read exp i))) gen

/-- GEN after RSGEN n (rule R91). -/
def buildGenerator (exp log : Memory Byte) (n : Nat) (gen : Memory Byte) : Memory Byte :=
  (List.range n).foldl (multiplyByRoot exp log) (startGenerator n gen)

/-- `for j in 0..n−1: REG[j] <- 0` (rule R92). -/
def clearRegister (n : Nat) (reg : Memory Byte) : Memory Byte :=
  (List.range n).foldl (fun g j => Memory.write g j 0#8) reg

/-- "shift the register left by one (drop oldest, append zero)" (rule R93). -/
def shiftRegister (n : Nat) (reg : Memory Byte) : Memory Byte :=
  Memory.write ((List.range (n - 1)).foldl (fun g j => Memory.write g j (Memory.read g (j + 1))) reg) (n - 1) 0#8

/-- `for j in 0..n−1: REG[j] <- REG[j] ^ gfmul(f, GEN[j+1])` (rule R93). -/
def addFeedback (exp log gen : Memory Byte) (n : Nat) (f : Byte) (reg : Memory Byte) : Memory Byte :=
  (List.range n).foldl
    (fun g j => Memory.write g j (Memory.read g j ^^^ gfmul exp log f (Memory.read gen (j + 1)))) reg

/-- REG after one step of the division with data byte `d` (rule R93): the feedback is taken before the shift. -/
def divisionStep (exp log gen : Memory Byte) (n : Nat) (reg : Memory Byte) (d : Byte) : Memory Byte :=
  let f := d ^^^ Memory.read reg 0
  let shifted := shiftRegister n reg
  if f = 0#8 then shifted else addFeedback exp log gen n f shifted

/-- What RSGEN n does (rule R91). -/
def rsgenEffect (n : Nat) (s : State) : State :=
  { s with gen := buildGenerator s.exp s.log n s.gen, genn := BitVec.ofNat 8 n, genv := true }

/-- What RSCLR does (rule R92). -/
def rsclrEffect (s : State) : State := { s with reg := clearRegister s.genn.toNat s.reg }

/-- What RSSTEP d does (rule R93). -/
def rsstepEffect (d : Byte) (s : State) : State :=
  { s with reg := divisionStep s.exp s.log s.gen s.genn.toNat s.reg d }

/-- `for i in 0..k−1: perform RSSTEP CW[i]` (rule R96). -/
def feedData (k : Nat) (s : State) : State :=
  (List.range k).foldl (fun s i => rsstepEffect (Memory.read s.cw i) s) s

/-- `for j in 0..n−1: CW[k + j] <- REG[j]` (rule R96). -/
def storeCheckBytes (n k : Nat) (s : State) : State :=
  { s with cw := (List.range n).foldl (fun c j => Memory.write c (k + j) (Memory.read s.reg j)) s.cw }

/-- What RSENC does (rule R96). -/
def rsencEffect (P : Params) (s : State) : State :=
  let n := P.ecc s.ver.toNat
  let k := P.data s.ver.toNat
  storeCheckBytes n k (feedData k (rsclrEffect (rsgenEffect n s)))

/-- RSGEN n (rule R91). -/
def execRsgen (b : BitVec 16) (s : State) : Host.Outcome State Fault Refusal :=
  command [(!s.tblv, .seq), (isZero b || above b 255, .range)] (rsgenEffect b.toNat) s

/-- RSCLR (rule R92). -/
def execRsclr (s : State) : Host.Outcome State Fault Refusal := command [(!s.genv, .seq)] rsclrEffect s

/-- RSSTEP d (rule R93). -/
def execRsstep (b : BitVec 16) (s : State) : Host.Outcome State Fault Refusal :=
  command [(!s.tblv || !s.genv, .seq), (above b 255, .range)] (rsstepEffect (b.setWidth 8)) s

/-- RSRD j (rule R94). -/
def execRsrd (a : BitVec 10) (s : State) : Host.Outcome State Fault Refusal :=
  command [(!s.genv, .seq), (atOrBeyond a s.genn.toNat, .range)]
    (fun s => s.setRes ((Memory.read s.reg a.toNat).setWidth 32)) s

/-- GENRD j (rule R95). -/
def execGenrd (a : BitVec 10) (s : State) : Host.Outcome State Fault Refusal :=
  command [(!s.genv, .seq), (above a s.genn.toNat, .range)]
    (fun s => s.setRes ((Memory.read s.gen a.toNat).setWidth 32)) s

/-- RSENC of the core with parameters P (rule R96). -/
def execRsencOf (P : Params) (s : State) : Host.Outcome State Fault Refusal :=
  command [(!s.tblv || !s.verv, .seq)] (rsencEffect P) s

/-- RSENC, at the default parameters. -/
def execRsenc (s : State) : Host.Outcome State Fault Refusal := execRsencOf params s

end Sys2Proof.Machine
end

