-- ==== Sys2Proof/Machine/Pipeline.lean ====
section
/-! DEFINITION. The whole pipeline: ENCODE (rules R165, R166). -/

namespace Sys2Proof.Machine

/-- What ENCODE does (rule R165): the units in the order GFINIT, VSEL, PACK, RSENC, MBUILD, PLACE, MASK, FMT. "No inner
step can fault", so each step is its unit's effect (log entry 7). -/
def encodeEffect (P : Params) (s : State) : State :=
  let s := gfinitEffect s
  let s := vselEffect P s
  let s := packEffect P s
  let s := rsencEffect P s
  let s := mbuildEffect P s
  let s := placeEffect P s
  let s := maskEffect s
  fmtEffect P s

/-- ENCODE of the core with parameters P (rule R165). -/
def execEncodeOf (P : Params) (s : State) : Host.Outcome State Fault Refusal :=
  command [(above s.len (P.cap 10), .capacity)] (encodeEffect P) s

/-- ENCODE, at the default parameters. -/
def execEncode (s : State) : Host.Outcome State Fault Refusal := execEncodeOf params s

end Sys2Proof.Machine
end

