-- ==== Sys2Proof/Machine/System.lean ====
section
/-! DEFINITION. The system commands NOP, RESET and RDREG (rules R160 to R162). -/

namespace Sys2Proof.Machine

/-- NOP (rule R160). -/
def execNop (s : State) : Host.Outcome State Fault Refusal := command [] id s

/-- RESET (rule R161): the one command that is executed whatever FAULT is. -/
def execReset (s : State) : Host.Outcome State Fault Refusal := .next (resetCore s)

/-- RDREG k (rule R162). -/
def execRdreg (a : BitVec 10) (s : State) : Host.Outcome State Fault Refusal :=
  command [(above a 6, .range)] (fun s => s.setRes (s.register a.toNat)) s

end Sys2Proof.Machine
end

