-- ==== Sys2Proof/Machine/Dispatch.lean ====
section
/-! DEFINITION. One arm per command. -/

namespace Sys2Proof.Machine

def exec (i : Instr) (s : State) : Host.Outcome State Fault Refusal :=
  match i with
  | .nop => Sys2Proof.Machine.execNop s
  | .reset => Sys2Proof.Machine.execReset s
  | .rdreg a => Sys2Proof.Machine.execRdreg a s
  | .encode => Sys2Proof.Machine.execEncode s
  | .gfinit => Sys2Proof.Machine.execGfinit s
  | .gfmul x y => Sys2Proof.Machine.execGfmul x y s
  | .gfexp b => Sys2Proof.Machine.execGfexp b s
  | .gflog b => Sys2Proof.Machine.execGflog b s
  | .rsgen b => Sys2Proof.Machine.execRsgen b s
  | .rsclr => Sys2Proof.Machine.execRsclr s
  | .rsstep b => Sys2Proof.Machine.execRsstep b s
  | .rsrd a => Sys2Proof.Machine.execRsrd a s
  | .genrd a => Sys2Proof.Machine.execGenrd a s
  | .rsenc => Sys2Proof.Machine.execRsenc s
  | .paywr a b => Sys2Proof.Machine.execPaywr a b s
  | .setlen b => Sys2Proof.Machine.execSetlen b s
  | .vsel => Sys2Proof.Machine.execVsel s
  | .setver b => Sys2Proof.Machine.execSetver b s
  | .pack => Sys2Proof.Machine.execPack s
  | .cwrd a => Sys2Proof.Machine.execCwrd a s
  | .cwwr a b => Sys2Proof.Machine.execCwwr a b s
  | .payrd a => Sys2Proof.Machine.execPayrd a s
  | .mbuild => Sys2Proof.Machine.execMbuild s
  | .mrd a b => Sys2Proof.Machine.execMrd a b s
  | .winit => Sys2Proof.Machine.execWinit s
  | .wnext => Sys2Proof.Machine.execWnext s
  | .place => Sys2Proof.Machine.execPlace s
  | .mask => Sys2Proof.Machine.execMask s
  | .fmt => Sys2Proof.Machine.execFmt s

end Sys2Proof.Machine
end

