-- ==== Sys2Proof/Machine/Step.lean ====
section
/-! DEFINITION. One step of the core (rule R164), and how a command word reaches it. -/

namespace Sys2Proof.Machine

/-- One step of the core, at the default parameters. -/
def step (s : State) : Host.Outcome State Fault Refusal := hostStep exec s

/-- `s` with the table's word as the next word the host writes to CMD: the core has no program counter and fetches
nothing (rule R13), so this is where the next command comes from. -/
def State.withFetchWord (s : State) (nbits w : Nat) : State := s.withCommand (tableWord nbits w)

end Sys2Proof.Machine
end

