-- ==== Sys2Proof/Machine/Parametric.lean ====
section
/-! DEFINITION. The core with the named parameters as an argument (rule R6, decision D18): the commands, the step and the
machine of any instance. `exec`, `step` and `core` are these at the defaults, `Machine.params`
(`execOf_params`, `stepOf_params` in Laws/Command.lean). -/

namespace Sys2Proof.Machine

/-- The meaning of each command in the core with parameters P. Seven commands read the parameters; the others are the
same in every instance. -/
def execOf (P : Params) (i : Instr) (s : State) : Host.Outcome State Fault Refusal :=
  match i with
  | .nop => execNop s
  | .reset => execReset s
  | .rdreg a => execRdreg a s
  | .encode => execEncodeOf P s
  | .gfinit => execGfinit s
  | .gfmul x y => execGfmul x y s
  | .gfexp b => execGfexp b s
  | .gflog b => execGflog b s
  | .rsgen b => execRsgen b s
  | .rsclr => execRsclr s
  | .rsstep b => execRsstep b s
  | .rsrd a => execRsrd a s
  | .genrd a => execGenrd a s
  | .rsenc => execRsencOf P s
  | .paywr a b => execPaywr a b s
  | .setlen b => execSetlen b s
  | .vsel => execVselOf P s
  | .setver b => execSetver b s
  | .pack => execPackOf P s
  | .cwrd a => execCwrd a s
  | .cwwr a b => execCwwr a b s
  | .payrd a => execPayrd a s
  | .mbuild => execMbuildOf P s
  | .mrd a b => execMrd a b s
  | .winit => execWinit s
  | .wnext => execWnext s
  | .place => execPlaceOf P s
  | .mask => execMask s
  | .fmt => execFmtOf P s

/-- One step of the core with parameters P (rule R164). -/
def stepOf (P : Params) (s : State) : Host.Outcome State Fault Refusal := hostStep (execOf P) s

/-- The core with parameters P. Reset does not depend on them (rule R195: "not state and are not affected"). The rules
hold for an instance with `P.ok` only (rule R7; U8 of 93_implementation_defined.md). -/
def coreOf (P : Params) : Host.Core :=
  { State := State, Fault := Fault, Refusal := Refusal, step := stepOf P, reset := State.reset }

end Sys2Proof.Machine
end

