-- ==== Sys2Proof/Machine/Renderer.lean ====
section
/-! DEFINITION. What the host computes outside the core: reading the finished symbol (rule R167) and rendering it to
rectangles (rules R170, R171). No command calls it. -/

namespace Sys2Proof.Machine

/-- QUIET, the renderer's margin in modules (rules R5, R8). -/
def quietZone : Nat := 2

/-- The default of modulePixelSize (rule R170; U11 of 93_implementation_defined.md: "default 4"). -/
def defaultModulePixelSize : Nat := 4

/-- "no color beyond black-on-white" (rule R170). -/
inductive Colour where
  | white | black
  deriving DecidableEq, Repr

/-- A rectangle of the drawing (rule R170). -/
structure Rect where
  x : Nat
  y : Nat
  w : Nat
  h : Nat
  colour : Colour
  deriving DecidableEq, Repr

/-- The extent and the rectangles of a drawing (rule R170). -/
structure Drawing where
  width : Nat
  height : Nat
  shapes : List Rect
  deriving DecidableEq, Repr

/-- Module (r, c) of the symbol in MAT: true is a dark module (rule R167). -/
def State.module (s : State) (r c : Nat) : Bool := (cellAt s.mat r c).val

/-- The rectangle of the module at (r, c) (rule R170): x from the column, y from the row. -/
def moduleRect (px : Nat) (p : Nat × Nat) : Rect :=
  { x := (p.2 + quietZone) * px, y := (p.1 + quietZone) * px, w := px, h := px, colour := .black }

/-- render(size, M, px) (rule R170): the white background first, then one black rectangle per dark module, row by row.
`none` for px = 0: "positive integer" (U11 of 93_implementation_defined.md). px may be left out. -/
def render (size : Nat) (M : Nat → Nat → Bool) (px : Nat := defaultModulePixelSize) : Option Drawing :=
  if px = 0 then none
  else
    let extent := (size + 2 * quietZone) * px
    some {
      width := extent
      height := extent
      shapes := { x := 0, y := 0, w := extent, h := extent, colour := .white } ::
        ((square size).filter (fun p => M p.1 p.2)).map (moduleRect px) }

end Sys2Proof.Machine
end

