-- ==== Sys2Proof/Safety.lean ====
section
/-! DEFINITION. What a state the core can be in looks like: the invariants of the registers and flags (rules R12 to R17),
of the stores (rules R40, R46), of the tables and the generator (rules R15, R19 to R21) and of the matrix (rules R25,
R26, R126). -/

namespace Sys2Proof.Machine

/-- The walker's registers name a cell of the traversal (rules R14, R141): WI counts the rows; WRIGHT is the right-hand
column of a pair (8 or more and even, or 5, 3, 1), and the direction alternates from pair to pair. -/
def State.walkerOk (s : State) : Bool :=
  decide (s.wi.toNat < s.size) &&
    (if 8 ≤ s.wright.toNat then
      decide (s.wright.toNat ≤ s.size - 1) && decide (s.wright.toNat % 2 = 0) &&
        (s.wup == decide (s.wright.toNat / 2 % 2 = 0))
    else
      decide (s.wright.toNat = 1 ∨ s.wright.toNat = 3 ∨ s.wright.toNat = 5) && (s.wup == decide (s.wright.toNat = 3)))

/-- The registers and the flags agree (rules R12, R14, R15, R17). -/
def State.registersOk (s : State) : Bool :=
  (s.fault == decide (s.err ≠ 0#8)) && decide (s.err.toNat ≤ 5) &&
  (s.verv == decide (1 ≤ s.ver.toNat)) && decide (s.ver.toNat ≤ 10) &&
  (s.genv == decide (1 ≤ s.genn.toNat)) &&
  (!s.matv || s.verv) && (!s.masked || s.matv) && (!s.ovf || decide (s.ver.toNat = 10)) &&
  (!s.wact || (s.verv && !s.wdone && s.walkerOk)) && (!s.wdone || (s.verv && s.walk == 0x2040#14)) &&
  (s.wact || s.wdone || s.walk == 0#14)

/-- Every store is in canonical form, lists no index beyond its depth (rules R40, R46), and LOG[0] is never written
(rule R20). -/
def State.storesOk (s : State) : Bool :=
  (Memory.wf s.exp && Memory.within Config.expDepth s.exp) &&
  (Memory.wf s.log && Memory.within Config.logDepth s.log && s.log.all (fun e => !(e.1 == 0))) &&
  (Memory.wf s.gen && Memory.within Config.genDepth s.gen) &&
  (Memory.wf s.reg && Memory.within Config.regDepth s.reg) &&
  (Memory.wf s.pay && Memory.within Config.payDepth s.pay) &&
  (Memory.wf s.cw && Memory.within Config.cwDepth s.cw) &&
  (Memory.wf s.mat && Memory.within (Config.matDim * Config.matDim) s.mat)

/-- TBLV = 1 means that EXP and LOG hold the tables of rule R81 (rule R15); a generator polynomial needs them. -/
structure State.TablesOk (s : State) : Prop where
  exp : s.tblv = true → ∀ i, i < Config.expDepth → Memory.read s.exp i = Memory.read (buildTables [] []).1 i
  log : s.tblv = true → ∀ v, 1 ≤ v → v < Config.logDepth → Memory.read s.log v = Memory.read (buildTables [] []).2 v
  built : s.genv = true → s.tblv = true

/-- GENV = 1 means that GEN[0..GENN] holds the generator polynomial of degree GENN (rules R15, R21). -/
def State.GeneratorOk (s : State) : Prop :=
  s.genv = true → ∀ j, j ≤ s.genn.toNat →
    Memory.read s.gen j =
      Memory.read (buildGenerator (buildTables [] []).1 (buildTables [] []).2 s.genn.toNat []) j

/-- What may become of a cell of the skeleton (rules R26, R144, R146, R156): a structural cell stays as it is, an unset
cell may become a data cell, a reserved cell may become a format cell. -/
def evolvesTo (before after : MCell) : Bool :=
  match before.cls with
  | .U => after == ⟨.U, false⟩ || after.cls == .D
  | .S => after == before
  | .R => after == ⟨.R, false⟩ || after.cls == .F
  | .D => false
  | .F => false

/-- MATV = 1 means that MAT holds the skeleton of the current version, or what PLACE, MASK and FMT make of it (rules
R15, R26). -/
def State.MatrixOk (s : State) : Prop :=
  s.matv = true → ∀ r c, r < s.size → c < s.size →
    evolvesTo (cellAt (buildSkeleton params s.ver.toNat []) r c) (cellAt s.mat r c) = true

/-- All of the above: what holds at reset and is kept by every step. -/
structure State.Inv (s : State) : Prop where
  registers : s.registersOk = true
  stores : s.storesOk = true
  tables : s.TablesOk
  generator : s.GeneratorOk
  matrix : s.MatrixOk

end Sys2Proof.Machine
end

