-- ==== Sys2Proof/Certificates/Slice0/Obligations.lean ====
section
/-! DEFINITION. The statements about the core, and the notions they are written in: closed forms of what the rules say,
independent of the loops of the machine. -/

namespace Sys2Proof.Claim

open Sys2Proof.Machine

/-! ### Running commands -/

/-- The state after a list of commands (rule R164, "the left fold of step"); `none` if one has no next state. -/
def run : List Instr → State → Option State
  | [], s => some s
  | i :: rest, s =>
    match exec i s with
    | .next t => run rest t
    | .fault _ => none
    | .refused _ => none

/-- The same in the core with parameters P (rule R6). -/
def runOf (P : Params) : List Instr → State → Option State
  | [], s => some s
  | i :: rest, s =>
    match execOf P i s with
    | .next t => runOf P rest t
    | .fault _ => none
    | .refused _ => none

/-- Commands are executed only while FAULT = 0 (rule R179). -/
abbrev Ready (s : State) : Prop := s.fault = false

/-- Executing the command raises the fault with this code and changes nothing else (rule R178). -/
abbrev Raises (i : Instr) (s : State) (code : BitVec 8) : Prop :=
  exec i s = .next { s with fault := true, err := code }

/-! ### Reset -/

/-- The values of rule R28, field by field and cell by cell. -/
def AtReset (t : State) : Prop :=
  (t.res = 0 ∧ t.len = 0 ∧ t.ver = 0 ∧ t.genn = 0) ∧
  (t.wright = 0 ∧ t.wi = 0 ∧ t.wj = false ∧ t.wup = false) ∧
  (t.tblv = false ∧ t.genv = false ∧ t.verv = false ∧ t.matv = false ∧ t.masked = false ∧ t.ovf = false ∧
    t.chtrunc = false ∧ t.wact = false ∧ t.wdone = false ∧ t.fault = false) ∧
  t.status = 0x0000 ∧ t.err = 0x00 ∧
  ∀ i, Memory.read t.exp i = 0x00 ∧ Memory.read t.log i = 0x00 ∧ Memory.read t.gen i = 0x00 ∧
    Memory.read t.reg i = 0x00 ∧ Memory.read t.cw i = 0x00 ∧ Memory.read t.pay i = 0x0000 ∧
    Memory.read t.mat i = ⟨.U, false⟩

/-! ### Registers -/

/-- STATUS as a number, bit by bit (rule R16). -/
def statusValue (s : State) : Nat :=
  s.tblv.toNat + 2 * s.genv.toNat + 4 * s.verv.toNat + 8 * s.matv.toNat + 16 * s.masked.toNat + 32 * s.ovf.toNat +
    64 * s.chtrunc.toNat + 128 * s.wact.toNat + 256 * s.wdone.toNat + 32768 * s.fault.toNat

/-- WALK as a number (rule R12). -/
def walkValue (s : State) : Nat := 8192 * s.wup.toNat + 4096 * s.wj.toNat + 64 * s.wright.toNat + s.wi.toNat

/-- What RDREG k reads, as a number (rule R162). -/
def registerValue (s : State) (k : Nat) : Nat :=
  if k = 0 then statusValue s
  else if k = 1 then s.err.toNat
  else if k = 2 then s.len.toNat
  else if k = 3 then s.ver.toNat
  else if k = 4 then s.genn.toNat
  else if k = 5 then walkValue s
  else if s.verv then 17 + 4 * s.ver.toNat else 0

/-! ### The field -/

/-- Twice an element: the bits move up, and 0x1D is folded in when the top bit leaves (rules R80, R81). -/
def twice (x : Byte) : Byte := if x.getLsbD 7 then (x <<< 1) ^^^ 0x1D else x <<< 1

/-- 2^i in the field (rules R80, R81). -/
def power : Nat → Byte
  | 0 => 1
  | i + 1 => twice (power i)

/-- The product of two polynomials over GF(2) (rule R80): the sum of a·z^k over the bits k of b. -/
def polynomialProduct (a b : Byte) : BitVec 16 :=
  (List.range 8).foldl (fun x k => if b.getLsbD k then x ^^^ (a.setWidth 16 <<< k) else x) 0

/-- The remainder modulo z^8 + z^4 + z^3 + z^2 + 1 (rule R80): bits 15 down to 8 are cancelled one by one. -/
def modulo11D (x : BitVec 16) : Byte :=
  ((List.range 8).foldl (fun x k => if x.getLsbD (15 - k) then x ^^^ (0x11D#16 <<< (7 - k)) else x) x).setWidth 8

/-- The product in GF(2^8) (rule R80). -/
def fieldProduct (a b : Byte) : Byte := modulo11D (polynomialProduct a b)

/-! ### Reed-Solomon -/

/-- Coefficient j (of x^(n−j)) of (x − 2^0)...(x − 2^(n−1)), by the recurrence of the product (rules R90, R91). -/
def generatorCoeff (exp log : Memory Byte) : Nat → Nat → Byte
  | 0, j => if j = 0 then 1 else 0
  | n + 1, j => generatorCoeff exp log n j ^^^
      (if j = 0 then 0 else gfmul exp log (generatorCoeff exp log n (j - 1)) (Memory.read exp n))

/-- One row of the long division by the polynomial with coefficients g (rule R93), on a register given as a function. -/
def divisionRow (exp log : Memory Byte) (g : Nat → Byte) (n : Nat) (r : Nat → Byte) (d : Byte) : Nat → Byte :=
  fun j => (if j + 1 < n then r (j + 1) else 0) ^^^ gfmul exp log (d ^^^ r 0) (g (j + 1))

/-- The register after all the data bytes, from a register of zeros (rules R90, R92, R93). -/
def remainder (exp log : Memory Byte) (g : Nat → Byte) (n : Nat) (data : List Byte) : Nat → Byte :=
  data.foldl (divisionRow exp log g n) (fun _ => 0)

/-- The value at 2^i of the polynomial whose coefficients are CW[0..k−1], highest power first, by Horner's rule. -/
def codewordAt (cw : Memory Byte) (k i : Nat) : Byte :=
  (List.range k).foldl (fun x m => fieldProduct x (power i) ^^^ Memory.read cw m) 0

/-- REG after RSCLR and an RSSTEP for each data byte, from what GEN holds. -/
def feedRegister (s : State) (n : Nat) (data : List Byte) : Memory Byte :=
  data.foldl (divisionStep s.exp s.log s.gen n) (clearRegister n s.reg)

/-! ### The packer -/

/-- v is the version rule R109 selects for `len` characters: the smallest that fits, 10 when none does. -/
def IsSelected (P : Params) (len v : Nat) : Prop :=
  1 ≤ v ∧ v ≤ 10 ∧
    if len ≤ P.cap 10 then len ≤ P.cap v ∧ ∀ u, 1 ≤ u → u < v → P.cap u < len else v = 10

/-- Bit number n of the stream of rule R112 for version v and `len` characters, in closed form. -/
def streamBit (P : Params) (v len : Nat) (pay : Memory Char16) (n : Nat) : Bool :=
  let head := 4 + lbits v
  let content := head + 8 * len
  let padStart := (content + min 4 (8 * P.data v - content) + 7) / 8 * 8
  if n < 4 then decide (n = 1)
  else if n < head then len.testBit (head - 1 - n)
  else if n < content then (Memory.read pay ((n - head) / 8)).getLsbD (7 - (n - head) % 8)
  else if n < padStart then false
  else if (n - padStart) / 8 % 2 = 0 then (0xEC : Byte).getLsbD (7 - (n - padStart) % 8)
  else (0x11 : Byte).getLsbD (7 - (n - padStart) % 8)

/-! ### The matrix -/

/-- A finder module at an offset inside the 7 × 7 square (rule R127). -/
def finderValue (dr dc : Nat) : Bool :=
  decide (dr = 0 ∨ dr = 6 ∨ dc = 0 ∨ dc = 6) || decide (2 ≤ dr ∧ dr ≤ 4 ∧ 2 ≤ dc ∧ dc ≤ 4)

/-- The value at (r, c) of a finder whose square begins at (r0, c0): 0 on its separator (rules R127, R128). -/
def finderAt (r0 c0 r c : Nat) : Bool :=
  decide (r0 ≤ r ∧ r ≤ r0 + 6 ∧ c0 ≤ c ∧ c ≤ c0 + 6) && finderValue (r - r0) (c - c0)

/-- (r, c) is one of the 30 format cells (rule R132); rows and columns below n. -/
def isFormatCell (n r c : Nat) : Bool :=
  (decide (c = 8) && (decide (r ≤ 8 ∧ r ≠ 6) || decide (n - 7 ≤ r))) ||
    (decide (r = 8) && (decide (c ≤ 8 ∧ c ≠ 6) || decide (n - 8 ≤ c)))

/-- The cell (r, c) of the skeleton of version v, in closed form (rules R127 to R132), for the default ALIGN of
rule R6 (log entry 2) and the reserved cells of rule R132 (log entry 3). -/
def skeletonCell (v r c : Nat) : MCell :=
  let n := 17 + 4 * v
  let p := 4 * v + 10
  if r ≤ 7 ∧ c ≤ 7 then ⟨.S, finderAt 0 0 r c⟩
  else if r ≤ 7 ∧ n - 8 ≤ c then ⟨.S, finderAt 0 (n - 7) r c⟩
  else if n - 8 ≤ r ∧ c ≤ 7 then ⟨.S, finderAt (n - 7) 0 r c⟩
  else if r = 6 then ⟨.S, decide (c % 2 = 0)⟩
  else if c = 6 then ⟨.S, decide (r % 2 = 0)⟩
  else if r = n - 8 ∧ c = 8 then ⟨.S, true⟩
  else if 2 ≤ v ∧ p - 2 ≤ r ∧ r ≤ p + 2 ∧ p - 2 ≤ c ∧ c ≤ p + 2 then
    ⟨.S, decide ((r = p ∧ c = p) ∨ r = p - 2 ∨ r = p + 2 ∨ c = p - 2 ∨ c = p + 2)⟩
  else if isFormatCell n r c then ⟨.R, false⟩
  else ⟨.U, false⟩

/-- The k-th visited cell of an n × n symbol, from 0, in closed form (rule R141). -/
def visited (n k : Nat) : Nat × Nat :=
  let pair := k / (2 * n)
  let i := k % (2 * n) / 2
  let right := if n - 1 - 2 * pair ≤ 6 then n - 2 - 2 * pair else n - 1 - 2 * pair
  (if pair % 2 = 0 then n - 1 - i else i, right - k % 2)

/-- The class of the k-th visited cell. -/
def visitedClass (mat : Memory MCell) (n k : Nat) : CellClass := (cellAt mat (visited n k).1 (visited n k).2).cls

/-- How many unset cells are visited before the k-th cell: the number of the bit it takes (rule R144). -/
def bitNumber (mat : Memory MCell) (n k : Nat) : Nat :=
  (List.range k).countP (fun m => decide (visitedClass mat n m = .U))

/-- The format bit that the format cell (r, c) shows, by its place in the strips (rule R157). -/
def formatIndex (n r c : Nat) : Nat :=
  if r = 8 ∧ n - 8 ≤ c then n - 1 - c
  else if c = 8 ∧ n - 7 ≤ r then r + 15 - n
  else if c = 8 ∧ r ≤ 5 then r
  else if c = 8 then r - 1
  else if c = 7 then 8
  else 14 - c

/-! ### Faults -/

/-- The fault of a command, by the table of rule R177: the first test that holds, or none. -/
def faultOf (i : Instr) (s : State) : Option FaultCode :=
  match i with
  | .nop | .reset | .gfinit | .setlen _ | .vsel => none
  | .rdreg a => if 6 < a.toNat then some .range else none
  | .encode => if params.cap 10 < s.len.toNat then some .capacity else none
  | .gfmul _ _ => if s.tblv = false then some .seq else none
  | .gfexp b => if s.tblv = false then some .seq else if 510 < b.toNat then some .range else none
  | .gflog b =>
    if s.tblv = false then some .seq else if 255 < b.toNat then some .range else if b = 0 then some .log0 else none
  | .rsgen b => if s.tblv = false then some .seq else if b = 0 ∨ 255 < b.toNat then some .range else none
  | .rsclr => if s.genv = false then some .seq else none
  | .rsstep b => if s.tblv = false ∨ s.genv = false then some .seq else if 255 < b.toNat then some .range else none
  | .rsrd a => if s.genv = false then some .seq else if s.genn.toNat ≤ a.toNat then some .range else none
  | .genrd a => if s.genv = false then some .seq else if s.genn.toNat < a.toNat then some .range else none
  | .rsenc => if s.tblv = false ∨ s.verv = false then some .seq else none
  | .paywr a _ => if 511 < a.toNat then some .range else none
  | .payrd a => if 511 < a.toNat then some .range else none
  | .setver b => if b = 0 ∨ 10 < b.toNat then some .range else none
  | .pack =>
    if s.verv = false then some .seq else if params.cap s.ver.toNat < s.len.toNat then some .capacity else none
  | .cwrd a => if 511 < a.toNat then some .range else none
  | .cwwr a b => if 511 < a.toNat ∨ 255 < b.toNat then some .range else none
  | .mbuild => if s.verv = false then some .seq else none
  | .mrd a b =>
    if s.matv = false then some .seq
    else if 17 + 4 * s.ver.toNat ≤ a.toNat ∨ 17 + 4 * s.ver.toNat ≤ b.toNat then some .range else none
  | .winit => if s.verv = false then some .seq else none
  | .wnext => if s.wact = false then some .seq else none
  | .place => if s.matv = false then some .seq else none
  | .mask => if s.matv = false then some .seq else none
  | .fmt => if s.matv = false then some .seq else none

/-- The code ERR records (rule R176). -/
def errCode : FaultCode → BitVec 8
  | .illegal => 1
  | .seq => 2
  | .range => 3
  | .log0 => 4
  | .capacity => 5

/-! ### Flags: the columns "set to 1 by" and "cleared to 0 by" of rule R15, for a command that does not fault -/

def tblvAfter (i : Instr) (s : State) : Bool :=
  match i with
  | .gfinit | .encode => true
  | .reset => false
  | _ => s.tblv

def genvAfter (i : Instr) (s : State) : Bool :=
  match i with
  | .rsgen _ | .rsenc | .encode => true
  | .reset => false
  | _ => s.genv

def vervAfter (i : Instr) (s : State) : Bool :=
  match i with
  | .vsel | .setver _ | .encode => true
  | .reset => false
  | _ => s.verv

def matvAfter (i : Instr) (s : State) : Bool :=
  match i with
  | .mbuild | .encode => true
  | .reset | .vsel | .setver _ => false
  | _ => s.matv

def maskedAfter (i : Instr) (s : State) : Bool :=
  match i with
  | .mask => !s.masked
  | .encode => true
  | .mbuild | .reset | .vsel | .setver _ => false
  | _ => s.masked

def ovfAfter (i : Instr) (s : State) : Bool :=
  match i with
  | .vsel => decide (params.cap 10 < s.len.toNat)
  | .setver _ | .encode | .reset => false
  | _ => s.ovf

/-- Some character PAY[k], k < LEN, has a nonzero high byte. -/
def truncates (s : State) : Bool :=
  (List.range s.len.toNat).any (fun k => decide ((Memory.read s.pay k).extractLsb' 8 8 ≠ 0#8))

def chtruncAfter (i : Instr) (s : State) : Bool :=
  match i with
  | .pack | .encode => truncates s
  | .reset => false
  | _ => s.chtrunc

/-- The cell WNEXT yields is the last of the traversal (rule R143). -/
def atLastCell (s : State) : Bool :=
  s.wj && decide (s.size - 1 ≤ s.wi.toNat) && decide (s.wright.toNat = 1)

def wactAfter (i : Instr) (s : State) : Bool :=
  match i with
  | .winit => true
  | .wnext => !atLastCell s
  | .place | .reset | .vsel | .setver _ | .encode => false
  | _ => s.wact

def wdoneAfter (i : Instr) (s : State) : Bool :=
  match i with
  | .wnext => atLastCell s || s.wdone
  | .place | .encode => true
  | .winit | .reset | .vsel | .setver _ => false
  | _ => s.wdone

/-! ### ENCODE -/

/-- The unit sequence of rule R166. -/
def pipeline : List Instr := [.gfinit, .vsel, .pack, .rsenc, .mbuild, .place, .mask, .fmt]

/-- Two states agree on the results of ENCODE as rule R165 lists them. -/
def SameResults (s t : State) : Prop :=
  s.ver = t.ver ∧ s.res = t.res ∧ s.status = t.status ∧ s.walk = t.walk ∧ s.genn = t.genn ∧
  (∀ k, k < params.total s.ver.toNat → Memory.read s.cw k = Memory.read t.cw k) ∧
  (∀ j, j ≤ s.genn.toNat → Memory.read s.gen j = Memory.read t.gen j) ∧
  (∀ j, j < s.genn.toNat → Memory.read s.reg j = Memory.read t.reg j) ∧
  (∀ i, i < Config.expDepth → Memory.read s.exp i = Memory.read t.exp i) ∧
  (∀ v, 1 ≤ v → v < Config.logDepth → Memory.read s.log v = Memory.read t.log v) ∧
  (∀ r c, r < s.size → c < s.size → cellAt s.mat r c = cellAt t.mat r c)

end Sys2Proof.Claim

open Sys2Proof Sys2Proof.Machine Sys2Proof.Claim

/-! ## Encoding -/

/-- Rules R60 to R64: decoding the word of a command gives the command back, every operand at every value. -/
def Obligations.DecodeOfEncodeIsTheCommand : Prop := ∀ i : Instr, decode (encode i) = some i

/-- Rule R64: a word the decoder reads is the word of that command, so no two words are the same command. -/
def Obligations.EncodeOfDecodeIsTheWord : Prop := ∀ (w : Word) (i : Instr), decode w = some i → encode i = w

/-- Rules R61, R64: the decoder accepts exactly the words that a row's mask and match select. -/
def Obligations.DecoderAcceptsExactlyTheTableRows : Prop := ∀ w : Word, (decode w).isSome = Word.wellFormed w

/-- A few words written out from rule R63 and the formats of rule R61. -/
def Obligations.SampleWordsDecode : Prop :=
  decode 0b00000100000000000000000000000000#32 = some .reset ∧
  decode 0b00001000000001100000000000000000#32 = some (.rdreg 6) ∧
  decode 0b00100100000000000000001010000000#32 = some (.gfmul 0x02 0x80) ∧
  decode 0b01001100000000010000000000000000#32 = some (.rsrd 1) ∧
  decode 0b01100000000000100000000001000011#32 = some (.paywr 2 0x43) ∧
  decode 0b10000100000011010000000000001000#32 = some (.mrd 13 8) ∧
  decode 0b10101100000000000000000000000000#32 = some .mask ∧
  decode 0b11000000000000000000000000000000#32 = some .fmt ∧
  decode 0b11111100000000000000000000000000#32 = none ∧
  decode 0b00000000000000000000000000000001#32 = none

/-! ## One step -/

/-- Rule R164: when the host's next event writes the word of a command, the step is that command, at the state in
which the event has happened. The list of pending events is the model's own (log entry 1). -/
def Obligations.StepRunsTheDecodedCommand : Prop :=
  ∀ (s : State) (w : Word) (rest : List HostEvent) (i : Instr),
    s.pending = .command w :: rest → decode w = some i → step s = exec i { s with pending := rest }

/-- Rule R66: an illegal word raises ERR_ILLEGAL when FAULT = 0 and changes no other state; when FAULT = 1 it is
ignored. -/
def Obligations.IllegalWordRaisesErrIllegal : Prop :=
  ∀ (s : State) (w : Word) (rest : List HostEvent), s.pending = .command w :: rest → decode w = none →
    (s.fault = false → step s = .next { s with pending := rest, fault := true, err := 0x01 }) ∧
    (s.fault = true → step s = .next { s with pending := rest })

/-- Rule R179: while FAULT = 1 every word but 0x04000000 is ignored. -/
def Obligations.FaultedCoreIgnoresEveryOtherWord : Prop :=
  ∀ (s : State) (w : Word) (rest : List HostEvent), s.fault = true → s.pending = .command w :: rest →
    w ≠ 0x04000000#32 → step s = .next { s with pending := rest }

/-- Every step from every state has a next state: nothing the core does ends the run (rules R164, R175). With nothing
from the host the core holds its state, the model's reading of rules R190 and R196 (log entry 1). The same holds of the
core with any parameters (rule R6), and at the defaults that core is the core (log entries 2 and 3). -/
def Obligations.EveryStepHasANextState : Prop :=
  ∀ s : State, (∃ t, step s = .next t) ∧ (s.pending = [] → step s = .next s) ∧ stepOf params s = step s ∧
    ∀ P : Params, (∃ t, stepOf P s = .next t) ∧ (s.pending = [] → stepOf P s = .next s)

/-! ## Reset and faults -/

/-- Rule R28: the reset state. -/
def Obligations.ResetStateHoldsTheResetValues : Prop := AtReset State.reset

/-- Rules R161, R195: RESET and the reset input put everything at its reset value, whatever FAULT and everything else
was. -/
def Obligations.ResetCommandAndInputRestoreEverything : Prop :=
  ∀ s : State,
    (∃ t, exec .reset s = .next t ∧ AtReset t) ∧
    (∀ rest, s.pending = .command 0x04000000#32 :: rest → ∃ t, step s = .next t ∧ AtReset t) ∧
    (∀ rest, s.pending = .resetInput :: rest → ∃ t, step s = .next t ∧ AtReset t)

/-- Rules R176, R177, R178: the tests of every command, in their order. A command that fails one writes FAULT and its
code into ERR and changes nothing else; a command that fails none has a next state without a fault. -/
def Obligations.FaultsAreTheTestsOfTheTable : Prop :=
  ∀ (i : Instr) (s : State), Ready s →
    (∀ k, faultOf i s = some k → Raises i s (errCode k)) ∧
    (faultOf i s = none → ∃ t, exec i s = .next t ∧ t.fault = false)

/-- Rule R17: ERR and FAULT are written only when FAULT goes from 0 to 1, and cleared only by a reset. -/
def Obligations.ErrChangesOnlyAtTheFirstFaultAndAtReset : Prop :=
  ∀ s t : State, step s = .next t →
    (t.fault = s.fault ∧ t.err = s.err) ∨
    (s.fault = false ∧ t.fault = true ∧ 1 ≤ t.err.toNat ∧ t.err.toNat ≤ 5) ∨
    (t.fault = false ∧ t.err = 0 ∧
      ∃ rest, s.pending = .resetInput :: rest ∨ s.pending = .command 0x04000000#32 :: rest)

/-- Rule R15: a flag changes only as the table says. -/
def Obligations.FlagsChangeOnlyAsTheTableSays : Prop :=
  ∀ (i : Instr) (s t : State), Ready s → exec i s = .next t → t.fault = false →
    t.tblv = tblvAfter i s ∧ t.genv = genvAfter i s ∧ t.verv = vervAfter i s ∧ t.matv = matvAfter i s ∧
    t.masked = maskedAfter i s ∧ t.ovf = ovfAfter i s ∧ t.chtrunc = chtruncAfter i s ∧ t.wact = wactAfter i s ∧
    t.wdone = wdoneAfter i s

/-- Rules R19 to R25, R12 and R14, the "written by" columns: a store or register changes only by a command that owns it
(RESET and ENCODE, which own almost all of them, aside). That no command changes the list of pending host events is the
model's own clause (log entry 1). -/
def Obligations.StoresAreWrittenOnlyByTheirOwners : Prop :=
  ∀ (i : Instr) (s t : State), exec i s = .next t → i ≠ .reset → i ≠ .encode →
    (t.exp ≠ s.exp → i = .gfinit) ∧ (t.log ≠ s.log → i = .gfinit) ∧
    (t.gen ≠ s.gen → i = .rsenc ∨ ∃ b, i = .rsgen b) ∧ (t.genn ≠ s.genn → i = .rsenc ∨ ∃ b, i = .rsgen b) ∧
    (t.reg ≠ s.reg → i = .rsclr ∨ i = .rsenc ∨ ∃ b, i = .rsstep b) ∧
    (t.pay ≠ s.pay → ∃ a b, i = .paywr a b) ∧ (t.len ≠ s.len → ∃ b, i = .setlen b) ∧
    (t.cw ≠ s.cw → i = .pack ∨ i = .rsenc ∨ ∃ a b, i = .cwwr a b) ∧
    (t.mat ≠ s.mat → i = .mbuild ∨ i = .place ∨ i = .mask ∨ i = .fmt) ∧
    (t.ver ≠ s.ver → i = .vsel ∨ ∃ b, i = .setver b) ∧
    (t.walk ≠ s.walk → i = .winit ∨ i = .wnext ∨ i = .place ∨ i = .vsel ∨ ∃ b, i = .setver b) ∧
    (t.res ≠ s.res → i = .vsel ∨ i = .wnext ∨ (∃ x y, i = .gfmul x y) ∨ (∃ b, i = .gfexp b) ∨ (∃ b, i = .gflog b) ∨
      (∃ a, i = .rsrd a) ∨ (∃ a, i = .genrd a) ∨ (∃ a, i = .payrd a) ∨ (∃ a, i = .cwrd a) ∨ (∃ a b, i = .mrd a b) ∨
      ∃ a, i = .rdreg a) ∧
    t.pending = s.pending

/-! ## System commands -/

/-- Rule R160: NOP does nothing, and the all-zero word is NOP. -/
def Obligations.NopDoesNothing : Prop := (∀ s : State, exec .nop s = .next s) ∧ encode .nop = 0#32

/-- Rule R16: the bits of STATUS. -/
def Obligations.StatusPacksTheFlags : Prop :=
  ∀ s : State, s.status.getLsbD 0 = s.tblv ∧ s.status.getLsbD 1 = s.genv ∧ s.status.getLsbD 2 = s.verv ∧
    s.status.getLsbD 3 = s.matv ∧ s.status.getLsbD 4 = s.masked ∧ s.status.getLsbD 5 = s.ovf ∧
    s.status.getLsbD 6 = s.chtrunc ∧ s.status.getLsbD 7 = s.wact ∧ s.status.getLsbD 8 = s.wdone ∧
    (∀ k, 9 ≤ k → k ≤ 14 → s.status.getLsbD k = false) ∧ s.status.getLsbD 15 = s.fault

/-- Rule R162: the word of RDREG; it copies register k, widened with zeros; a number above 6 raises ERR_RANGE. The registers agree
with the flags (`registersOk`), so that SIZE fits its 6 bits. -/
def Obligations.RdregCopiesTheRegister : Prop :=
  ∀ (a : BitVec 10) (s : State), Ready s → s.registersOk = true →
    (encode (.rdreg a)).toNat = 0x08000000 + 65536 * a.toNat ∧
    (a.toNat ≤ 6 → exec (.rdreg a) s = .next { s with res := BitVec.ofNat 32 (registerValue s a.toNat) }) ∧
    (6 < a.toNat → Raises (.rdreg a) s 0x03)

/-! ## The field engine -/

/-- Rule R81: the word of GFINIT; the tables after it, and that nothing else changes. -/
def Obligations.GfinitBuildsTheTables : Prop :=
  encode .gfinit = 0x20000000#32 ∧ ∀ s : State, Ready s → ∃ t, exec .gfinit s = .next t ∧
    t = { s with exp := t.exp, log := t.log, tblv := true } ∧
    (∀ i, i ≤ 254 → Memory.read t.exp i = power i ∧ Memory.read t.log (power i).toNat = BitVec.ofNat 8 i) ∧
    (∀ i, 255 ≤ i → i ≤ 510 → Memory.read t.exp i = Memory.read t.exp (i - 255)) ∧
    (∀ i, 511 ≤ i → Memory.read t.exp i = Memory.read s.exp i) ∧
    (∀ i, i = 0 ∨ 256 ≤ i → Memory.read t.log i = Memory.read s.log i)

/-- Rule R20: LOG is the inverse mapping, LOG[v] the unique exponent below 255. -/
def Obligations.LogarithmInvertsExponent : Prop :=
  ∀ s : State, Ready s → ∃ t, exec .gfinit s = .next t ∧
    (∀ v, 1 ≤ v → v ≤ 255 → (Memory.read t.log v).toNat ≤ 254 ∧
      Memory.read t.exp (Memory.read t.log v).toNat = BitVec.ofNat 8 v) ∧
    (∀ i j, i ≤ 254 → j ≤ 254 → Memory.read t.exp i = Memory.read t.exp j → i = j)

/-- Rules R82, R83: the word of GFMUL; it needs the tables; it leaves gfmul(x, y) in RES, the zero test first, and
changes nothing else. -/
def Obligations.GfmulLooksUpTheTables : Prop :=
  ∀ (x y : Byte) (s : State), Ready s →
    (encode (.gfmul x y)).toNat = 0x24000000 + 256 * x.toNat + y.toNat ∧
    (s.tblv = false → Raises (.gfmul x y) s 0x02) ∧
    (s.tblv = true → exec (.gfmul x y) s = .next { s with
      res := if x = 0 ∨ y = 0 then 0
        else BitVec.ofNat 32
          (Memory.read s.exp ((Memory.read s.log x.toNat).toNat + (Memory.read s.log y.toNat).toNat)).toNat })

/-- Rule R80: after GFINIT, GFMUL multiplies polynomials modulo z^8 + z^4 + z^3 + z^2 + 1. -/
def Obligations.GfmulIsPolynomialMultiplication : Prop :=
  ∀ (x y : Byte) (s : State), Ready s → ∃ t u, exec .gfinit s = .next t ∧ exec (.gfmul x y) t = .next u ∧
    u.res = (fieldProduct x y).setWidth 32

/-- Rule R82: the laws of gfmul on the tables GFINIT builds. -/
def Obligations.GfmulObeysTheFieldLaws : Prop :=
  ∀ s : State, Ready s → ∃ t, exec .gfinit s = .next t ∧ ∀ a b c : Byte,
    gfmul t.exp t.log a b = gfmul t.exp t.log b a ∧
    gfmul t.exp t.log a 1 = a ∧ gfmul t.exp t.log a 0 = 0 ∧
    gfmul t.exp t.log a (gfmul t.exp t.log b c) = gfmul t.exp t.log (gfmul t.exp t.log a b) c ∧
    gfmul t.exp t.log a (b ^^^ c) = gfmul t.exp t.log a b ^^^ gfmul t.exp t.log a c ∧
    (a ≠ 0 → ∀ d, gfmul t.exp t.log a d = 1 ↔ d = Memory.read t.exp (255 - (Memory.read t.log a.toNat).toNat))

/-- Rules R84, R85: the words of GFEXP and GFLOG, their faults in the order of the tests, and the cell they read. -/
def Obligations.TableReadsReturnTheCell : Prop :=
  ∀ (b : BitVec 16) (s : State), Ready s →
    (encode (.gfexp b)).toNat = 0x28000000 + b.toNat ∧ (encode (.gflog b)).toNat = 0x2C000000 + b.toNat ∧
    (s.tblv = false → Raises (.gfexp b) s 0x02 ∧ Raises (.gflog b) s 0x02) ∧
    (s.tblv = true → b.toNat ≤ 510 →
      exec (.gfexp b) s = .next { s with res := BitVec.ofNat 32 (Memory.read s.exp b.toNat).toNat }) ∧
    (s.tblv = true → 510 < b.toNat → Raises (.gfexp b) s 0x03) ∧
    (s.tblv = true → 1 ≤ b.toNat → b.toNat ≤ 255 →
      exec (.gflog b) s = .next { s with res := BitVec.ofNat 32 (Memory.read s.log b.toNat).toNat }) ∧
    (s.tblv = true → 255 < b.toNat → Raises (.gflog b) s 0x03) ∧
    (s.tblv = true → b.toNat = 0 → Raises (.gflog b) s 0x04)

/-! ## The Reed-Solomon encoder -/

/-- Rule R91: the word of RSGEN and its faults; GEN[0..n] becomes the product (x − 2^0)...(x − 2^(n−1)), highest power
first; nothing else but GENN and GENV changes. -/
def Obligations.RsgenBuildsTheGeneratorPolynomial : Prop :=
  ∀ (b : BitVec 16) (s : State), Ready s →
    (encode (.rsgen b)).toNat = 0x40000000 + b.toNat ∧
    (s.tblv = false → Raises (.rsgen b) s 0x02) ∧
    (s.tblv = true → b.toNat = 0 ∨ 255 < b.toNat → Raises (.rsgen b) s 0x03) ∧
    (s.tblv = true → 1 ≤ b.toNat → b.toNat ≤ 255 → ∃ t, exec (.rsgen b) s = .next t ∧
      t = { s with gen := t.gen, genn := BitVec.ofNat 8 b.toNat, genv := true } ∧
      (∀ j, j ≤ b.toNat → Memory.read t.gen j = generatorCoeff s.exp s.log b.toNat j) ∧
      Memory.read t.gen 0 = 1 ∧
      (∀ j, b.toNat < j → Memory.read t.gen j = Memory.read s.gen j))

/-- Rule R92: the word of RSCLR; it needs GENV; it zeroes REG[0..GENN−1] and nothing else. -/
def Obligations.RsclrClearsTheRegister : Prop :=
  encode .rsclr = 0x44000000#32 ∧ ∀ s : State, Ready s →
    (s.genv = false → Raises .rsclr s 0x02) ∧
    (s.genv = true → ∃ t, exec .rsclr s = .next t ∧ t = { s with reg := t.reg } ∧
      (∀ j, j < s.genn.toNat → Memory.read t.reg j = 0) ∧
      (∀ j, s.genn.toNat ≤ j → Memory.read t.reg j = Memory.read s.reg j))

/-- Rule R93: the word of RSSTEP and its faults; one step of the division; cells at and above GENN and everything but
REG are unchanged. GENV = 1 goes with a degree of at least 1 (`registersOk`). -/
def Obligations.RsstepIsOneDivisionStep : Prop :=
  ∀ (b : BitVec 16) (s : State), Ready s → s.registersOk = true →
    (encode (.rsstep b)).toNat = 0x48000000 + b.toNat ∧
    (s.tblv = false ∨ s.genv = false → Raises (.rsstep b) s 0x02) ∧
    (s.tblv = true → s.genv = true → 255 < b.toNat → Raises (.rsstep b) s 0x03) ∧
    (s.tblv = true → s.genv = true → b.toNat ≤ 255 →
      ∃ t, exec (.rsstep b) s = .next t ∧ t = { s with reg := t.reg } ∧
        (∀ j, j < s.genn.toNat → Memory.read t.reg j =
          (if j + 1 < s.genn.toNat then Memory.read s.reg (j + 1) else 0) ^^^
            gfmul s.exp s.log (BitVec.ofNat 8 b.toNat ^^^ Memory.read s.reg 0) (Memory.read s.gen (j + 1))) ∧
        (∀ j, s.genn.toNat ≤ j → Memory.read t.reg j = Memory.read s.reg j))

/-- Rules R94, R95: the words of RSRD and GENRD, their faults, and the element they copy into RES. -/
def Obligations.GeneratorAndRegisterReadsReturnTheElement : Prop :=
  ∀ (a : BitVec 10) (s : State), Ready s →
    (encode (.rsrd a)).toNat = 0x4C000000 + 65536 * a.toNat ∧
    (encode (.genrd a)).toNat = 0x50000000 + 65536 * a.toNat ∧
    (s.genv = false → Raises (.rsrd a) s 0x02 ∧ Raises (.genrd a) s 0x02) ∧
    (s.genv = true → a.toNat < s.genn.toNat →
      exec (.rsrd a) s = .next { s with res := BitVec.ofNat 32 (Memory.read s.reg a.toNat).toNat }) ∧
    (s.genv = true → s.genn.toNat ≤ a.toNat → Raises (.rsrd a) s 0x03) ∧
    (s.genv = true → a.toNat ≤ s.genn.toNat →
      exec (.genrd a) s = .next { s with res := BitVec.ofNat 32 (Memory.read s.gen a.toNat).toNat }) ∧
    (s.genv = true → s.genn.toNat < a.toNat → Raises (.genrd a) s 0x03)

/-- Rule R96: the word of RSENC and its fault; it builds the generator of degree ECC[VER], divides the data segment by it and stores the remainder
after it; nothing else changes. VERV = 1 goes with a version in 1..10 (`registersOk`). -/
def Obligations.RsencStoresTheRemainder : Prop :=
  encode .rsenc = 0x54000000#32 ∧ ∀ s : State, Ready s → s.registersOk = true →
    (s.tblv = false ∨ s.verv = false → Raises .rsenc s 0x02) ∧
    (s.tblv = true → s.verv = true → ∃ t, exec .rsenc s = .next t ∧
      t = { s with gen := t.gen, genn := BitVec.ofNat 8 (params.ecc s.ver.toNat), genv := true,
                   reg := t.reg, cw := t.cw } ∧
      (∀ j, j ≤ params.ecc s.ver.toNat → Memory.read t.gen j =
        generatorCoeff s.exp s.log (params.ecc s.ver.toNat) j) ∧
      (∀ j, params.ecc s.ver.toNat < j → Memory.read t.gen j = Memory.read s.gen j) ∧
      (∀ j, j < params.ecc s.ver.toNat → Memory.read t.reg j =
        remainder s.exp s.log (generatorCoeff s.exp s.log (params.ecc s.ver.toNat)) (params.ecc s.ver.toNat)
          ((List.range (params.data s.ver.toNat)).map (Memory.read s.cw)) j) ∧
      (∀ j, params.ecc s.ver.toNat ≤ j → Memory.read t.reg j = Memory.read s.reg j) ∧
      (∀ j, j < params.ecc s.ver.toNat → Memory.read t.cw (params.data s.ver.toNat + j) = Memory.read t.reg j) ∧
      (∀ k, k < params.data s.ver.toNat ∨ params.total s.ver.toNat ≤ k → Memory.read t.cw k = Memory.read s.cw k))

/-- A consequence of rule R90: after RSENC on built tables the whole codeword, data then check bytes, is a multiple of
the generator polynomial: it vanishes at 2^0, ..., 2^(n−1). -/
def Obligations.RsencCodewordVanishesAtTheRoots : Prop :=
  ∀ s : State, Ready s → s.registersOk = true → s.TablesOk → s.tblv = true → s.verv = true →
    ∃ t, exec .rsenc s = .next t ∧
      ∀ i, i < params.ecc s.ver.toNat → codewordAt t.cw (params.total s.ver.toNat) i = 0

/-- Rule R90: the map from data to check bytes is linear over exclusive-or, and zero data gives zero check bytes. -/
def Obligations.CheckBytesAreLinear : Prop :=
  ∀ (s : State) (n : Nat) (d e : List Byte), s.TablesOk → s.tblv = true → d.length = e.length →
    (∀ j, j < n → Memory.read (feedRegister s n (List.zipWith (· ^^^ ·) d e)) j =
      Memory.read (feedRegister s n d) j ^^^ Memory.read (feedRegister s n e) j) ∧
    (∀ k j, j < n → Memory.read (feedRegister s n (List.replicate k 0)) j = 0)

/-! ## The packer -/

/-- Rules R106, R107: the words of PAYWR and PAYRD, their fault; PAYWR writes one character and nothing else, PAYRD
copies one into RES. -/
def Obligations.PayloadAccessMovesOneCharacter : Prop :=
  ∀ (a : BitVec 10) (b : BitVec 16) (s : State), Ready s →
    (encode (.paywr a b)).toNat = 0x60000000 + 65536 * a.toNat + b.toNat ∧
    (encode (.payrd a)).toNat = 0x7C000000 + 65536 * a.toNat ∧
    (a.toNat ≤ 511 → ∃ t, exec (.paywr a b) s = .next t ∧ t = { s with pay := t.pay } ∧
      Memory.read t.pay a.toNat = b ∧ ∀ i, i ≠ a.toNat → Memory.read t.pay i = Memory.read s.pay i) ∧
    (a.toNat ≤ 511 →
      exec (.payrd a) s = .next { s with res := BitVec.ofNat 32 (Memory.read s.pay a.toNat).toNat }) ∧
    (511 < a.toNat → Raises (.paywr a b) s 0x03 ∧ Raises (.payrd a) s 0x03)

/-- Rules R117, R118: the words of CWRD and CWWR, their faults; CWWR writes one codeword and nothing else, CWRD copies
one into RES. -/
def Obligations.CodewordAccessMovesOneByte : Prop :=
  ∀ (a : BitVec 10) (b : BitVec 16) (s : State), Ready s →
    (encode (.cwwr a b)).toNat = 0x78000000 + 65536 * a.toNat + b.toNat ∧
    (encode (.cwrd a)).toNat = 0x74000000 + 65536 * a.toNat ∧
    (a.toNat ≤ 511 → b.toNat ≤ 255 → ∃ t, exec (.cwwr a b) s = .next t ∧ t = { s with cw := t.cw } ∧
      Memory.read t.cw a.toNat = BitVec.ofNat 8 b.toNat ∧
      ∀ i, i ≠ a.toNat → Memory.read t.cw i = Memory.read s.cw i) ∧
    (511 < a.toNat ∨ 255 < b.toNat → Raises (.cwwr a b) s 0x03) ∧
    (a.toNat ≤ 511 →
      exec (.cwrd a) s = .next { s with res := BitVec.ofNat 32 (Memory.read s.cw a.toNat).toNat }) ∧
    (511 < a.toNat → Raises (.cwrd a) s 0x03)

/-- Rules R108, R111: the words of SETLEN and SETVER; SETLEN takes any length; SETVER takes 1..10 and invalidates the
matrix and the walker. -/
def Obligations.SetlenAndSetverWriteTheirRegister : Prop :=
  ∀ (b : BitVec 16) (s : State), Ready s →
    (encode (.setlen b)).toNat = 0x64000000 + b.toNat ∧ (encode (.setver b)).toNat = 0x6C000000 + b.toNat ∧
    exec (.setlen b) s = .next { s with len := b } ∧
    (1 ≤ b.toNat → b.toNat ≤ 10 → exec (.setver b) s = .next { s with
      ver := BitVec.ofNat 4 b.toNat, verv := true, ovf := false, matv := false, masked := false, wact := false,
      wdone := false, wright := 0, wi := 0, wj := false, wup := false }) ∧
    (b.toNat = 0 ∨ 10 < b.toNat → Raises (.setver b) s 0x03)

/-- Rule R109: the word of VSEL; it selects the smallest version that fits, 10 with OVF when none does; it never faults. -/
def Obligations.VselSelectsTheSmallestVersionThatFits : Prop :=
  encode .vsel = 0x68000000#32 ∧ ∀ s : State, Ready s → ∃ t v, exec .vsel s = .next t ∧ IsSelected params s.len.toNat v ∧
    t = { s with
      ver := BitVec.ofNat 4 v, verv := true, ovf := decide (params.cap 10 < s.len.toNat), matv := false,
      masked := false, wact := false, wdone := false, wright := 0, wi := 0, wj := false, wup := false,
      res := BitVec.ofNat 32 v }

/-- Rules R109, R168, for every instance of the parameters that meets rule R7: the selection is the smallest version
that fits, a longer payload never selects a smaller version, and VSEL of that core selects it. -/
def Obligations.SelectionIsMonotoneForEveryInstance : Prop :=
  ∀ P : Params, P.ok = true →
    (∀ m n : Nat, IsSelected P n (selectVersion P n).1 ∧ ((selectVersion P n).2 = decide (P.cap 10 < n)) ∧
      (m ≤ n → (selectVersion P m).1 ≤ (selectVersion P n).1)) ∧
    (∀ s : State, Ready s → ∃ t v, execOf P .vsel s = .next t ∧ IsSelected P s.len.toNat v ∧
      t = { s with
        ver := BitVec.ofNat 4 v, verv := true, ovf := decide (P.cap 10 < s.len.toNat), matv := false,
        masked := false, wact := false, wdone := false, wright := 0, wi := 0, wj := false, wup := false,
        res := BitVec.ofNat 32 v })

/-- Rule R113: the word of PACK and its faults; it writes the stream of rule R112 into the data segment, most significant
bit first, and CHTRUNC; nothing else changes. -/
def Obligations.PackWritesTheBitStream : Prop :=
  encode .pack = 0x70000000#32 ∧ ∀ s : State, Ready s → s.registersOk = true →
    (s.verv = false → Raises .pack s 0x02) ∧
    (s.verv = true → params.cap s.ver.toNat < s.len.toNat → Raises .pack s 0x05) ∧
    (s.verv = true → s.len.toNat ≤ params.cap s.ver.toNat →
      ∃ t, exec .pack s = .next t ∧ t = { s with cw := t.cw, chtrunc := truncates s } ∧
        (∀ k j, k < params.data s.ver.toNat → j < 8 → (Memory.read t.cw k).getLsbD (7 - j) =
          streamBit params s.ver.toNat s.len.toNat s.pay (8 * k + j)) ∧
        (∀ k, params.data s.ver.toNat ≤ k → Memory.read t.cw k = Memory.read s.cw k))

/-- Rules R112, R113, for every instance that meets rule R7: the stream has exactly 8·DATA[v] bits when the payload
fits, and PACK of that core writes it, or refuses a payload above CAP[VER]. -/
def Obligations.StreamFillsTheBudgetForEveryInstance : Prop :=
  ∀ P : Params, P.ok = true →
    (∀ (v len : Nat) (pay : Memory Char16), 1 ≤ v → v ≤ 10 → len ≤ P.cap v →
      (bitStream P v len pay).length = 8 * P.data v) ∧
    (∀ s : State, Ready s → s.registersOk = true → s.verv = true →
      (P.cap s.ver.toNat < s.len.toNat → execOf P .pack s = .next { s with fault := true, err := 0x05 }) ∧
      (s.len.toNat ≤ P.cap s.ver.toNat → ∃ t, execOf P .pack s = .next t ∧
        t = { s with cw := t.cw, chtrunc := truncates s } ∧
        (∀ k j, k < P.data s.ver.toNat → j < 8 → (Memory.read t.cw k).getLsbD (7 - j) =
          streamBit P s.ver.toNat s.len.toNat s.pay (8 * k + j)) ∧
        (∀ k, P.data s.ver.toNat ≤ k → Memory.read t.cw k = Memory.read s.cw k)))

/-- Rule R116: after PACK then RSENC the mode and length fields stand at the head of the codewords. -/
def Obligations.PackedHeadHoldsModeAndLength : Prop :=
  ∀ s : State, Ready s → s.registersOk = true → s.tblv = true → s.verv = true →
    s.len.toNat ≤ params.cap s.ver.toNat →
    params.data s.ver.toNat + params.ecc s.ver.toNat = params.total s.ver.toNat ∧
    ∃ t, run [.pack, .rsenc] s = some t ∧
      (Memory.read t.cw 0).extractLsb' 4 4 = 0b0100#4 ∧
      (s.ver.toNat ≤ 9 → 16 * ((Memory.read t.cw 0).extractLsb' 0 4).toNat +
        ((Memory.read t.cw 1).extractLsb' 4 4).toNat = s.len.toNat % 256) ∧
      (s.ver.toNat = 10 → 4096 * ((Memory.read t.cw 0).extractLsb' 0 4).toNat + 16 * (Memory.read t.cw 1).toNat +
        ((Memory.read t.cw 2).extractLsb' 4 4).toNat = s.len.toNat)

/-! ## The matrix -/

/-- Rules R126 to R132: the word of MBUILD and its fault; every cell of the skeleton, in closed form; cells outside the
square and everything but MATV and MASKED are unchanged. The closed form has the default ALIGN of rule R6 (log entry 2,
PRESUMED) and the reserved cells of rule R132 (log entry 3, PRESUMED). -/
def Obligations.MbuildStampsTheSkeleton : Prop :=
  encode .mbuild = 0x80000000#32 ∧ ∀ s : State, Ready s → s.registersOk = true →
    (s.verv = false → Raises .mbuild s 0x02) ∧
    (s.verv = true → ∃ t, exec .mbuild s = .next t ∧ t = { s with mat := t.mat, matv := true, masked := false } ∧
      (∀ r c, r < s.size → c < s.size → cellAt t.mat r c = skeletonCell s.ver.toNat r c) ∧
      (∀ i, (¬ ∃ r c, r < s.size ∧ c < s.size ∧ i = cellIndex r c) → Memory.read t.mat i = Memory.read s.mat i))

/-- The class codes of rule R26, and rule R134: the word of MRD and its faults; it returns twice the class code plus
the value. -/
def Obligations.MrdReturnsClassAndValue : Prop :=
  ∀ (a : BitVec 10) (b : BitVec 16) (s : State), Ready s →
    (encode (.mrd a b)).toNat = 0x84000000 + 65536 * a.toNat + b.toNat ∧
    (s.matv = false → Raises (.mrd a b) s 0x02) ∧
    (s.matv = true → 17 + 4 * s.ver.toNat ≤ a.toNat ∨ 17 + 4 * s.ver.toNat ≤ b.toNat → Raises (.mrd a b) s 0x03) ∧
    (s.matv = true → a.toNat < 17 + 4 * s.ver.toNat → b.toNat < 17 + 4 * s.ver.toNat →
      exec (.mrd a b) s = .next { s with
        res := BitVec.ofNat 32
          (2 * (match (cellAt s.mat a.toNat b.toNat).cls with
            | .U => 0
            | .S => 1
            | .R => 2
            | .D => 3
            | .F => 4) + (cellAt s.mat a.toNat b.toNat).val.toNat) })

/-! ## The walker, placement and the mask -/

/-- Rule R142: the word of WINIT and its fault; it starts the walker at the bottom right corner, upward. -/
def Obligations.WinitStartsTheWalker : Prop :=
  encode .winit = 0xA0000000#32 ∧ ∀ s : State, Ready s →
    (s.verv = false → Raises .winit s 0x02) ∧
    (s.verv = true → exec .winit s = .next { s with
      wright := BitVec.ofNat 6 (16 + 4 * s.ver.toNat), wi := 0, wj := false, wup := true, wact := true,
      wdone := false })

/-- Rule R143: the word of WNEXT and its fault; it yields the next cell and moves on, in each of its four cases. -/
def Obligations.WnextYieldsTheCellAndMovesOn : Prop :=
  encode .wnext = 0xA4000000#32 ∧ ∀ s : State, Ready s → s.registersOk = true →
    (s.wact = false → Raises .wnext s 0x02) ∧
    (s.wact = true → ∃ t, exec .wnext s = .next t ∧
      t.res = BitVec.ofNat 32 (256 * (if s.wup then 16 + 4 * s.ver.toNat - s.wi.toNat else s.wi.toNat) +
        (s.wright.toNat - s.wj.toNat)) ∧
      (s.wj = false → t = { s with res := t.res, wj := true }) ∧
      (s.wj = true → s.wi.toNat < 16 + 4 * s.ver.toNat →
        t = { s with res := t.res, wj := false, wi := BitVec.ofNat 6 (s.wi.toNat + 1) }) ∧
      (s.wj = true → s.wi.toNat = 16 + 4 * s.ver.toNat → s.wright.toNat ≠ 1 →
        t = { s with res := t.res, wj := false, wi := 0, wup := !s.wup,
                     wright := BitVec.ofNat 6 (if s.wright.toNat = 8 then 5 else s.wright.toNat - 2) }) ∧
      (s.wj = true → s.wi.toNat = 16 + 4 * s.ver.toNat → s.wright.toNat = 1 →
        t = { s with res := t.res, wj := false, wi := 0, wup := !s.wup, wact := false, wdone := true }))

/-- Rule R141: the visiting order. For every odd side from 9 the walk has n·(n−1) cells, the k-th is given in closed
form, no cell comes twice, and exactly the cells outside column 6 are visited. -/
def Obligations.WalkVisitsEveryCellOutsideColumnSixOnce : Prop :=
  ∀ n : Nat, 9 ≤ n → n % 2 = 1 →
    (walk n).length = n * (n - 1) ∧ (walk n).Nodup ∧
    (∀ k, k < n * (n - 1) → (walk n)[k]? = some (visited n k)) ∧
    (∀ r c, (r, c) ∈ walk n ↔ r < n ∧ c < n ∧ c ≠ 6)

/-- Rules R141, R143: from WINIT, the WNEXTs yield exactly the visiting order, and the last one ends the traversal with
WALK = 0x2040. -/
def Obligations.WalkerYieldsTheVisitingOrder : Prop :=
  ∀ s : State, Ready s → s.registersOk = true → s.verv = true →
    ∀ k, k < s.size * (s.size - 1) →
      ∃ t u, run (.winit :: List.replicate k .wnext) s = some t ∧ exec .wnext t = .next u ∧
        u.res = BitVec.ofNat 32 (256 * (visited s.size k).1 + (visited s.size k).2) ∧
        (k + 1 < s.size * (s.size - 1) → u.wact = true ∧ u.wdone = false) ∧
        (k + 1 = s.size * (s.size - 1) → u.wact = false ∧ u.wdone = true ∧ u.walk = 0x2040#14)

/-- Rules R144, R145: the word of PLACE and its fault; the k-th visited cell, if unset, takes the bit whose number is the
count of unset cells before it, 0 once the bits are exhausted; every other cell is left alone; the walker ends as a
traversal ends. -/
def Obligations.PlaceFillsTheUnsetCellsInOrder : Prop :=
  encode .place = 0xA8000000#32 ∧ ∀ s : State, Ready s → s.registersOk = true →
    (s.matv = false → Raises .place s 0x02) ∧
    (s.matv = true → ∃ t, exec .place s = .next t ∧
      t = { s with mat := t.mat, wright := 1, wi := 0, wj := false, wup := true, wact := false, wdone := true } ∧
      (∀ k, k < s.size * (s.size - 1) →
        cellAt t.mat (visited s.size k).1 (visited s.size k).2 =
          if visitedClass s.mat s.size k = .U then
            ⟨.D, decide (bitNumber s.mat s.size k < 8 * params.total s.ver.toNat) &&
              (Memory.read s.cw (bitNumber s.mat s.size k / 8)).getLsbD (7 - bitNumber s.mat s.size k % 8)⟩
          else cellAt s.mat (visited s.size k).1 (visited s.size k).2) ∧
      (∀ i, (¬ ∃ r c, r < s.size ∧ c < s.size ∧ c ≠ 6 ∧ i = cellIndex r c) →
        Memory.read t.mat i = Memory.read s.mat i))

/-- Rule R146: the word of MASK and its fault; it flips exactly the class D cells with row + column even, and toggles
MASKED. -/
def Obligations.MaskFlipsTheCheckerboard : Prop :=
  encode .mask = 0xAC000000#32 ∧ ∀ s : State, Ready s → s.registersOk = true →
    (s.matv = false → Raises .mask s 0x02) ∧
    (s.matv = true → ∃ t, exec .mask s = .next t ∧ t = { s with mat := t.mat, masked := !s.masked } ∧
      (∀ r c, r < s.size → c < s.size → cellAt t.mat r c =
        if (cellAt s.mat r c).cls = .D ∧ (r + c) % 2 = 0 then ⟨.D, !(cellAt s.mat r c).val⟩
        else cellAt s.mat r c) ∧
      (∀ i, (¬ ∃ r c, r < s.size ∧ c < s.size ∧ i = cellIndex r c) → Memory.read t.mat i = Memory.read s.mat i))

/-- Rules R146, R168: masking is its own inverse: MASK; MASK restores the whole state. -/
def Obligations.MaskTwiceRestoresTheState : Prop :=
  ∀ s : State, Ready s → s.registersOk = true → s.storesOk = true → s.matv = true → run [.mask, .mask] s = some s

/-- Rules R156, R157: the word of FMT and its fault; it writes the format bit of each reserved or filled cell of the
strips, and nothing else. The constant 0x77C4 of rule R158 and the cells are log entry 3 (PRESUMED). -/
def Obligations.FmtFillsTheReservedCells : Prop :=
  encode .fmt = 0xC0000000#32 ∧ ∀ s : State, Ready s → s.registersOk = true →
    (s.matv = false → Raises .fmt s 0x02) ∧
    (s.matv = true → ∃ t, exec .fmt s = .next t ∧ t = { s with mat := t.mat } ∧
      (∀ r c, r < s.size → c < s.size → cellAt t.mat r c =
        if isFormatCell s.size r c ∧ ((cellAt s.mat r c).cls = .R ∨ (cellAt s.mat r c).cls = .F) then
          ⟨.F, (0x77C4 : Nat).testBit (formatIndex s.size r c)⟩
        else cellAt s.mat r c) ∧
      (∀ i, (¬ ∃ r c, r < s.size ∧ c < s.size ∧ i = cellIndex r c) → Memory.read t.mat i = Memory.read s.mat i))

/-- Rule R156: FMT may run before or after PLACE and MASK with the same final state, and twice is the same as once. -/
def Obligations.FmtCommutesWithPlaceAndMask : Prop :=
  ∀ s : State, Ready s → s.registersOk = true → s.storesOk = true → s.matv = true →
    ∃ t u v, run [.fmt, .place] s = some t ∧ run [.place, .fmt] s = some t ∧
      run [.fmt, .mask] s = some u ∧ run [.mask, .fmt] s = some u ∧
      run [.fmt] s = some v ∧ run [.fmt, .fmt] s = some v

/-! ## The whole pipeline -/

/-- Rules R165, R167, R168: what ENCODE leaves in the registers and the flags; what it leaves alone; every cell of the
symbol has a value; and the structural cells are those of the skeleton, with the skeleton's values. The closed form of
the skeleton has the default ALIGN (log entry 2, PRESUMED) and the reserved cells of log entry 3 (PRESUMED). -/
def Obligations.EncodeCompletesTheSymbol : Prop :=
  ∀ s : State, Ready s → s.len.toNat ≤ params.cap 10 →
    ∃ t v, exec .encode s = .next t ∧ IsSelected params s.len.toNat v ∧ t.ver = BitVec.ofNat 4 v ∧
      t.res = BitVec.ofNat 32 v ∧ t.genn = BitVec.ofNat 8 (params.ecc v) ∧ t.walk = 0x2040#14 ∧
      t.status = (if truncates s then 0x015F#16 else 0x011F#16) ∧
      t.pay = s.pay ∧ t.len = s.len ∧ t.err = s.err ∧ t.pending = s.pending ∧
      (∀ i, Config.expDepth ≤ i → Memory.read t.exp i = Memory.read s.exp i) ∧
      (∀ i, i = 0 ∨ Config.logDepth ≤ i → Memory.read t.log i = Memory.read s.log i) ∧
      (∀ j, params.ecc v < j → Memory.read t.gen j = Memory.read s.gen j) ∧
      (∀ j, params.ecc v ≤ j → Memory.read t.reg j = Memory.read s.reg j) ∧
      (∀ k, params.total v ≤ k → Memory.read t.cw k = Memory.read s.cw k) ∧
      (∀ i, (¬ ∃ r c, r < side v ∧ c < side v ∧ i = cellIndex r c) → Memory.read t.mat i = Memory.read s.mat i) ∧
      (∀ r c, r < side v → c < side v →
        ((cellAt t.mat r c).cls = .S ∨ (cellAt t.mat r c).cls = .D ∨ (cellAt t.mat r c).cls = .F) ∧
        ((cellAt t.mat r c).cls = .S ↔ (skeletonCell v r c).cls = .S) ∧
        ((cellAt t.mat r c).cls = .S → cellAt t.mat r c = skeletonCell v r c))

/-- Rule R166: ENCODE leaves exactly the state that the unit sequence leaves, in the core and in the core with any
parameters that meet rule R7. -/
def Obligations.EncodeIsTheUnitSequence : Prop :=
  (∀ s : State, Ready s → s.len.toNat ≤ params.cap 10 →
    ∃ t, exec .encode s = .next t ∧ run pipeline s = some t) ∧
  (∀ P : Params, P.ok = true → ∀ s : State, Ready s → s.len.toNat ≤ P.cap 10 →
    ∃ t, execOf P .encode s = .next t ∧ runOf P pipeline s = some t)

/-- Rules R165, R166: the results of ENCODE depend on PAY[0..LEN−1] and LEN only, never on what earlier commands
left. -/
def Obligations.EncodeDependsOnThePayloadOnly : Prop :=
  ∀ s t : State, Ready s → Ready t → s.len = t.len → s.len.toNat ≤ params.cap 10 →
    (∀ k, k < s.len.toNat → Memory.read s.pay k = Memory.read t.pay k) →
    ∃ u v, exec .encode s = .next u ∧ exec .encode t = .next v ∧ SameResults u v

/-- Rule R165: ENCODE twice gives the same state twice. -/
def Obligations.EncodeTwiceIsEncodeOnce : Prop :=
  ∀ s : State, Ready s → s.storesOk = true → s.len.toNat ≤ params.cap 10 →
    ∃ t, exec .encode s = .next t ∧ exec .encode t = .next t

/-- Rule R168, Scenario D: payloads of equal length give the same class in every cell and the same value in every
structural and format cell. -/
def Obligations.EqualLengthsDifferOnlyInDataCells : Prop :=
  ∀ s t : State, Ready s → Ready t → s.len = t.len → s.len.toNat ≤ params.cap 10 →
    ∃ u v, exec .encode s = .next u ∧ exec .encode t = .next v ∧ u.ver = v.ver ∧
      ∀ r c, r < u.size → c < u.size → (cellAt u.mat r c).cls = (cellAt v.mat r c).cls ∧
        ((cellAt u.mat r c).cls ≠ .D → cellAt u.mat r c = cellAt v.mat r c)

/-! ## Invariants -/

/-- Every step keeps the agreement of registers and flags (rules R12 to R17). -/
def Obligations.StepKeepsTheRegisters : Prop :=
  ∀ s t : State, s.registersOk = true → step s = .next t → t.registersOk = true

/-- Every step keeps the canonical form and the bounds of every store: no command generates an index out of range
(rules R40, R46). -/
def Obligations.StepKeepsTheStores : Prop :=
  ∀ s t : State, s.registersOk = true → s.storesOk = true → step s = .next t → t.storesOk = true

/-- Every step keeps the meaning of TBLV and GENV (rule R15). -/
def Obligations.StepKeepsTablesAndGenerator : Prop :=
  ∀ s t : State, s.registersOk = true → s.TablesOk → s.GeneratorOk → step s = .next t → t.TablesOk ∧ t.GeneratorOk

/-- Every step keeps the meaning of MATV: structural cells never change (rules R15, R26, R168). -/
def Obligations.StepKeepsTheMatrix : Prop :=
  ∀ s t : State, s.registersOk = true → s.MatrixOk → step s = .next t → t.MatrixOk

/-- The invariants hold at reset. -/
def Obligations.InvariantsHoldAtReset : Prop := State.reset.Inv

/-! ## The renderer (host function) -/

/-- Rule R170: the extent, the background first, and one rectangle for each dark module; px = 0 is refused, and px left
out is 4 (U11 of 93_implementation_defined.md). -/
def Obligations.RenderDrawsOneRectanglePerDarkModule : Prop :=
  (∀ (size : Nat) (M : Nat → Nat → Bool), render size M 0 = none ∧ render size M = render size M 4) ∧
  ∀ (size px : Nat) (M : Nat → Nat → Bool), 0 < px →
    ∃ d shapes, render size M px = some d ∧ d.width = (size + 4) * px ∧ d.height = (size + 4) * px ∧
      d.shapes = { x := 0, y := 0, w := (size + 4) * px, h := (size + 4) * px, colour := .white } :: shapes ∧
      shapes.Nodup ∧
      ∀ q : Rect, q ∈ shapes ↔ ∃ r c, r < size ∧ c < size ∧ M r c = true ∧
        q = { x := (c + 2) * px, y := (r + 2) * px, w := px, h := px, colour := .black }
end

