-- ==== Sys2Proof/Laws/State.lean ====
section
/-! SUPPORT. The named updates of State, field by field: each is true by rfl, so that no proof unfolds a record update. -/

namespace Sys2Proof.Machine

/-! ### `RES <- v`. -/

@[simp] theorem State.setRes_res (s : State) (v : Word) : (s.setRes v).res = v := rfl
@[simp] theorem State.setRes_len (s : State) (v : Word) : (s.setRes v).len = s.len := rfl
@[simp] theorem State.setRes_ver (s : State) (v : Word) : (s.setRes v).ver = s.ver := rfl
@[simp] theorem State.setRes_genn (s : State) (v : Word) : (s.setRes v).genn = s.genn := rfl
@[simp] theorem State.setRes_wright (s : State) (v : Word) : (s.setRes v).wright = s.wright := rfl
@[simp] theorem State.setRes_wi (s : State) (v : Word) : (s.setRes v).wi = s.wi := rfl
@[simp] theorem State.setRes_wj (s : State) (v : Word) : (s.setRes v).wj = s.wj := rfl
@[simp] theorem State.setRes_wup (s : State) (v : Word) : (s.setRes v).wup = s.wup := rfl
@[simp] theorem State.setRes_tblv (s : State) (v : Word) : (s.setRes v).tblv = s.tblv := rfl
@[simp] theorem State.setRes_genv (s : State) (v : Word) : (s.setRes v).genv = s.genv := rfl
@[simp] theorem State.setRes_verv (s : State) (v : Word) : (s.setRes v).verv = s.verv := rfl
@[simp] theorem State.setRes_matv (s : State) (v : Word) : (s.setRes v).matv = s.matv := rfl
@[simp] theorem State.setRes_masked (s : State) (v : Word) : (s.setRes v).masked = s.masked := rfl
@[simp] theorem State.setRes_ovf (s : State) (v : Word) : (s.setRes v).ovf = s.ovf := rfl
@[simp] theorem State.setRes_chtrunc (s : State) (v : Word) : (s.setRes v).chtrunc = s.chtrunc := rfl
@[simp] theorem State.setRes_wact (s : State) (v : Word) : (s.setRes v).wact = s.wact := rfl
@[simp] theorem State.setRes_wdone (s : State) (v : Word) : (s.setRes v).wdone = s.wdone := rfl
@[simp] theorem State.setRes_fault (s : State) (v : Word) : (s.setRes v).fault = s.fault := rfl
@[simp] theorem State.setRes_err (s : State) (v : Word) : (s.setRes v).err = s.err := rfl
@[simp] theorem State.setRes_exp (s : State) (v : Word) : (s.setRes v).exp = s.exp := rfl
@[simp] theorem State.setRes_log (s : State) (v : Word) : (s.setRes v).log = s.log := rfl
@[simp] theorem State.setRes_gen (s : State) (v : Word) : (s.setRes v).gen = s.gen := rfl
@[simp] theorem State.setRes_reg (s : State) (v : Word) : (s.setRes v).reg = s.reg := rfl
@[simp] theorem State.setRes_pay (s : State) (v : Word) : (s.setRes v).pay = s.pay := rfl
@[simp] theorem State.setRes_cw (s : State) (v : Word) : (s.setRes v).cw = s.cw := rfl
@[simp] theorem State.setRes_mat (s : State) (v : Word) : (s.setRes v).mat = s.mat := rfl
@[simp] theorem State.setRes_pending (s : State) (v : Word) : (s.setRes v).pending = s.pending := rfl

/-! ### Taking a fault (rule R178): FAULT and ERR, nothing else. -/

@[simp] theorem raiseFault_res (k : FaultCode) (s : State) : (raiseFault k s).res = s.res := rfl
@[simp] theorem raiseFault_len (k : FaultCode) (s : State) : (raiseFault k s).len = s.len := rfl
@[simp] theorem raiseFault_ver (k : FaultCode) (s : State) : (raiseFault k s).ver = s.ver := rfl
@[simp] theorem raiseFault_genn (k : FaultCode) (s : State) : (raiseFault k s).genn = s.genn := rfl
@[simp] theorem raiseFault_wright (k : FaultCode) (s : State) : (raiseFault k s).wright = s.wright := rfl
@[simp] theorem raiseFault_wi (k : FaultCode) (s : State) : (raiseFault k s).wi = s.wi := rfl
@[simp] theorem raiseFault_wj (k : FaultCode) (s : State) : (raiseFault k s).wj = s.wj := rfl
@[simp] theorem raiseFault_wup (k : FaultCode) (s : State) : (raiseFault k s).wup = s.wup := rfl
@[simp] theorem raiseFault_tblv (k : FaultCode) (s : State) : (raiseFault k s).tblv = s.tblv := rfl
@[simp] theorem raiseFault_genv (k : FaultCode) (s : State) : (raiseFault k s).genv = s.genv := rfl
@[simp] theorem raiseFault_verv (k : FaultCode) (s : State) : (raiseFault k s).verv = s.verv := rfl
@[simp] theorem raiseFault_matv (k : FaultCode) (s : State) : (raiseFault k s).matv = s.matv := rfl
@[simp] theorem raiseFault_masked (k : FaultCode) (s : State) : (raiseFault k s).masked = s.masked := rfl
@[simp] theorem raiseFault_ovf (k : FaultCode) (s : State) : (raiseFault k s).ovf = s.ovf := rfl
@[simp] theorem raiseFault_chtrunc (k : FaultCode) (s : State) : (raiseFault k s).chtrunc = s.chtrunc := rfl
@[simp] theorem raiseFault_wact (k : FaultCode) (s : State) : (raiseFault k s).wact = s.wact := rfl
@[simp] theorem raiseFault_wdone (k : FaultCode) (s : State) : (raiseFault k s).wdone = s.wdone := rfl
@[simp] theorem raiseFault_fault (k : FaultCode) (s : State) : (raiseFault k s).fault = true := rfl
@[simp] theorem raiseFault_err (k : FaultCode) (s : State) : (raiseFault k s).err = k.code := rfl
@[simp] theorem raiseFault_exp (k : FaultCode) (s : State) : (raiseFault k s).exp = s.exp := rfl
@[simp] theorem raiseFault_log (k : FaultCode) (s : State) : (raiseFault k s).log = s.log := rfl
@[simp] theorem raiseFault_gen (k : FaultCode) (s : State) : (raiseFault k s).gen = s.gen := rfl
@[simp] theorem raiseFault_reg (k : FaultCode) (s : State) : (raiseFault k s).reg = s.reg := rfl
@[simp] theorem raiseFault_pay (k : FaultCode) (s : State) : (raiseFault k s).pay = s.pay := rfl
@[simp] theorem raiseFault_cw (k : FaultCode) (s : State) : (raiseFault k s).cw = s.cw := rfl
@[simp] theorem raiseFault_mat (k : FaultCode) (s : State) : (raiseFault k s).mat = s.mat := rfl
@[simp] theorem raiseFault_pending (k : FaultCode) (s : State) : (raiseFault k s).pending = s.pending := rfl

/-! ### A write of VER (rules R109, R111). -/

@[simp] theorem writeVersion_res (v : BitVec 4) (o : Bool) (s : State) : (writeVersion v o s).res = s.res := rfl
@[simp] theorem writeVersion_len (v : BitVec 4) (o : Bool) (s : State) : (writeVersion v o s).len = s.len := rfl
@[simp] theorem writeVersion_ver (v : BitVec 4) (o : Bool) (s : State) : (writeVersion v o s).ver = v := rfl
@[simp] theorem writeVersion_genn (v : BitVec 4) (o : Bool) (s : State) : (writeVersion v o s).genn = s.genn := rfl
@[simp] theorem writeVersion_wright (v : BitVec 4) (o : Bool) (s : State) : (writeVersion v o s).wright = 0 := rfl
@[simp] theorem writeVersion_wi (v : BitVec 4) (o : Bool) (s : State) : (writeVersion v o s).wi = 0 := rfl
@[simp] theorem writeVersion_wj (v : BitVec 4) (o : Bool) (s : State) : (writeVersion v o s).wj = false := rfl
@[simp] theorem writeVersion_wup (v : BitVec 4) (o : Bool) (s : State) : (writeVersion v o s).wup = false := rfl
@[simp] theorem writeVersion_tblv (v : BitVec 4) (o : Bool) (s : State) : (writeVersion v o s).tblv = s.tblv := rfl
@[simp] theorem writeVersion_genv (v : BitVec 4) (o : Bool) (s : State) : (writeVersion v o s).genv = s.genv := rfl
@[simp] theorem writeVersion_verv (v : BitVec 4) (o : Bool) (s : State) : (writeVersion v o s).verv = true := rfl
@[simp] theorem writeVersion_matv (v : BitVec 4) (o : Bool) (s : State) : (writeVersion v o s).matv = false := rfl
@[simp] theorem writeVersion_masked (v : BitVec 4) (o : Bool) (s : State) : (writeVersion v o s).masked = false := rfl
@[simp] theorem writeVersion_ovf (v : BitVec 4) (o : Bool) (s : State) : (writeVersion v o s).ovf = o := rfl
@[simp] theorem writeVersion_chtrunc (v : BitVec 4) (o : Bool) (s : State) : (writeVersion v o s).chtrunc = s.chtrunc := rfl
@[simp] theorem writeVersion_wact (v : BitVec 4) (o : Bool) (s : State) : (writeVersion v o s).wact = false := rfl
@[simp] theorem writeVersion_wdone (v : BitVec 4) (o : Bool) (s : State) : (writeVersion v o s).wdone = false := rfl
@[simp] theorem writeVersion_fault (v : BitVec 4) (o : Bool) (s : State) : (writeVersion v o s).fault = s.fault := rfl
@[simp] theorem writeVersion_err (v : BitVec 4) (o : Bool) (s : State) : (writeVersion v o s).err = s.err := rfl
@[simp] theorem writeVersion_exp (v : BitVec 4) (o : Bool) (s : State) : (writeVersion v o s).exp = s.exp := rfl
@[simp] theorem writeVersion_log (v : BitVec 4) (o : Bool) (s : State) : (writeVersion v o s).log = s.log := rfl
@[simp] theorem writeVersion_gen (v : BitVec 4) (o : Bool) (s : State) : (writeVersion v o s).gen = s.gen := rfl
@[simp] theorem writeVersion_reg (v : BitVec 4) (o : Bool) (s : State) : (writeVersion v o s).reg = s.reg := rfl
@[simp] theorem writeVersion_pay (v : BitVec 4) (o : Bool) (s : State) : (writeVersion v o s).pay = s.pay := rfl
@[simp] theorem writeVersion_cw (v : BitVec 4) (o : Bool) (s : State) : (writeVersion v o s).cw = s.cw := rfl
@[simp] theorem writeVersion_mat (v : BitVec 4) (o : Bool) (s : State) : (writeVersion v o s).mat = s.mat := rfl
@[simp] theorem writeVersion_pending (v : BitVec 4) (o : Bool) (s : State) : (writeVersion v o s).pending = s.pending := rfl

/-! ### Leaving the fault state (rules R161, R195). -/

@[simp] theorem resetCore_res (s : State) : (resetCore s).res = State.reset.res := rfl
@[simp] theorem resetCore_len (s : State) : (resetCore s).len = State.reset.len := rfl
@[simp] theorem resetCore_ver (s : State) : (resetCore s).ver = State.reset.ver := rfl
@[simp] theorem resetCore_genn (s : State) : (resetCore s).genn = State.reset.genn := rfl
@[simp] theorem resetCore_wright (s : State) : (resetCore s).wright = State.reset.wright := rfl
@[simp] theorem resetCore_wi (s : State) : (resetCore s).wi = State.reset.wi := rfl
@[simp] theorem resetCore_wj (s : State) : (resetCore s).wj = State.reset.wj := rfl
@[simp] theorem resetCore_wup (s : State) : (resetCore s).wup = State.reset.wup := rfl
@[simp] theorem resetCore_tblv (s : State) : (resetCore s).tblv = State.reset.tblv := rfl
@[simp] theorem resetCore_genv (s : State) : (resetCore s).genv = State.reset.genv := rfl
@[simp] theorem resetCore_verv (s : State) : (resetCore s).verv = State.reset.verv := rfl
@[simp] theorem resetCore_matv (s : State) : (resetCore s).matv = State.reset.matv := rfl
@[simp] theorem resetCore_masked (s : State) : (resetCore s).masked = State.reset.masked := rfl
@[simp] theorem resetCore_ovf (s : State) : (resetCore s).ovf = State.reset.ovf := rfl
@[simp] theorem resetCore_chtrunc (s : State) : (resetCore s).chtrunc = State.reset.chtrunc := rfl
@[simp] theorem resetCore_wact (s : State) : (resetCore s).wact = State.reset.wact := rfl
@[simp] theorem resetCore_wdone (s : State) : (resetCore s).wdone = State.reset.wdone := rfl
@[simp] theorem resetCore_fault (s : State) : (resetCore s).fault = State.reset.fault := rfl
@[simp] theorem resetCore_err (s : State) : (resetCore s).err = State.reset.err := rfl
@[simp] theorem resetCore_exp (s : State) : (resetCore s).exp = State.reset.exp := rfl
@[simp] theorem resetCore_log (s : State) : (resetCore s).log = State.reset.log := rfl
@[simp] theorem resetCore_gen (s : State) : (resetCore s).gen = State.reset.gen := rfl
@[simp] theorem resetCore_reg (s : State) : (resetCore s).reg = State.reset.reg := rfl
@[simp] theorem resetCore_pay (s : State) : (resetCore s).pay = State.reset.pay := rfl
@[simp] theorem resetCore_cw (s : State) : (resetCore s).cw = State.reset.cw := rfl
@[simp] theorem resetCore_mat (s : State) : (resetCore s).mat = State.reset.mat := rfl
@[simp] theorem resetCore_pending (s : State) : (resetCore s).pending = s.pending := rfl

/-! ### The host's next word. -/

@[simp] theorem State.withCommand_res (s : State) (w : Word) : (s.withCommand w).res = s.res := rfl
@[simp] theorem State.withCommand_len (s : State) (w : Word) : (s.withCommand w).len = s.len := rfl
@[simp] theorem State.withCommand_ver (s : State) (w : Word) : (s.withCommand w).ver = s.ver := rfl
@[simp] theorem State.withCommand_genn (s : State) (w : Word) : (s.withCommand w).genn = s.genn := rfl
@[simp] theorem State.withCommand_wright (s : State) (w : Word) : (s.withCommand w).wright = s.wright := rfl
@[simp] theorem State.withCommand_wi (s : State) (w : Word) : (s.withCommand w).wi = s.wi := rfl
@[simp] theorem State.withCommand_wj (s : State) (w : Word) : (s.withCommand w).wj = s.wj := rfl
@[simp] theorem State.withCommand_wup (s : State) (w : Word) : (s.withCommand w).wup = s.wup := rfl
@[simp] theorem State.withCommand_tblv (s : State) (w : Word) : (s.withCommand w).tblv = s.tblv := rfl
@[simp] theorem State.withCommand_genv (s : State) (w : Word) : (s.withCommand w).genv = s.genv := rfl
@[simp] theorem State.withCommand_verv (s : State) (w : Word) : (s.withCommand w).verv = s.verv := rfl
@[simp] theorem State.withCommand_matv (s : State) (w : Word) : (s.withCommand w).matv = s.matv := rfl
@[simp] theorem State.withCommand_masked (s : State) (w : Word) : (s.withCommand w).masked = s.masked := rfl
@[simp] theorem State.withCommand_ovf (s : State) (w : Word) : (s.withCommand w).ovf = s.ovf := rfl
@[simp] theorem State.withCommand_chtrunc (s : State) (w : Word) : (s.withCommand w).chtrunc = s.chtrunc := rfl
@[simp] theorem State.withCommand_wact (s : State) (w : Word) : (s.withCommand w).wact = s.wact := rfl
@[simp] theorem State.withCommand_wdone (s : State) (w : Word) : (s.withCommand w).wdone = s.wdone := rfl
@[simp] theorem State.withCommand_fault (s : State) (w : Word) : (s.withCommand w).fault = s.fault := rfl
@[simp] theorem State.withCommand_err (s : State) (w : Word) : (s.withCommand w).err = s.err := rfl
@[simp] theorem State.withCommand_exp (s : State) (w : Word) : (s.withCommand w).exp = s.exp := rfl
@[simp] theorem State.withCommand_log (s : State) (w : Word) : (s.withCommand w).log = s.log := rfl
@[simp] theorem State.withCommand_gen (s : State) (w : Word) : (s.withCommand w).gen = s.gen := rfl
@[simp] theorem State.withCommand_reg (s : State) (w : Word) : (s.withCommand w).reg = s.reg := rfl
@[simp] theorem State.withCommand_pay (s : State) (w : Word) : (s.withCommand w).pay = s.pay := rfl
@[simp] theorem State.withCommand_cw (s : State) (w : Word) : (s.withCommand w).cw = s.cw := rfl
@[simp] theorem State.withCommand_mat (s : State) (w : Word) : (s.withCommand w).mat = s.mat := rfl
@[simp] theorem State.withCommand_pending (s : State) (w : Word) : (s.withCommand w).pending = .command w :: s.pending := rfl

/-! ### The derived registers follow the fields they are made of -/

@[simp] theorem State.setRes_status (s : State) (v : Word) : (s.setRes v).status = s.status := rfl
@[simp] theorem State.setRes_size (s : State) (v : Word) : (s.setRes v).size = s.size := rfl
@[simp] theorem State.setRes_walk (s : State) (v : Word) : (s.setRes v).walk = s.walk := rfl
@[simp] theorem raiseFault_size (k : FaultCode) (s : State) : (raiseFault k s).size = s.size := rfl
@[simp] theorem raiseFault_walk (k : FaultCode) (s : State) : (raiseFault k s).walk = s.walk := rfl
@[simp] theorem writeVersion_size (v : BitVec 4) (o : Bool) (s : State) :
    (writeVersion v o s).size = side v.toNat := rfl
@[simp] theorem writeVersion_walk (v : BitVec 4) (o : Bool) (s : State) : (writeVersion v o s).walk = 0#14 := by
  simp [State.walk]
@[simp] theorem resetCore_status (s : State) : (resetCore s).status = 0#16 := by simp [State.status, State.reset]

end Sys2Proof.Machine
end

