-- ==== Sys2Proof/Laws/Command.lean ====
section
/-! SUPPORT. What the frame of every command can do (rules R164, R178, R179), and what one step can do. -/

namespace Sys2Proof.Machine

variable {tests : List (Bool × FaultCode)} {effect : State → State} {s t : State}

/-- While FAULT = 1 the command is ignored (rule R179). -/
theorem command_of_faulted (h : s.fault = true) : command tests effect s = .next s := by simp [command, h]

/-- The first test that holds raises its fault (rules R164, R178). -/
theorem command_of_test (h : s.fault = false) {x : Bool × FaultCode} (hx : tests.find? (fun y => y.1) = some x) :
    command tests effect s = .next (raiseFault x.2 s) := by simp [command, h, hx]

/-- With no test that holds the command is performed to completion (rule R164). -/
theorem command_of_no_test (h : s.fault = false) (ht : ∀ x ∈ tests, x.1 = false) :
    command tests effect s = .next (effect s) := by
  have : tests.find? (fun y => y.1) = none := List.find?_eq_none.2 (fun x hx => by simp [ht x hx])
  simp [command, h, this]

/-- Everything a command can do. -/
theorem command_cases (h : command tests effect s = .next t) :
    (s.fault = true ∧ t = s) ∨
    (s.fault = false ∧ ∃ x ∈ tests, x.1 = true ∧ t = raiseFault x.2 s) ∨
    (s.fault = false ∧ (∀ x ∈ tests, x.1 = false) ∧ t = effect s) := by
  cases hf : s.fault with
  | true => rw [command_of_faulted hf] at h; cases h; exact .inl ⟨rfl, rfl⟩
  | false =>
    cases hx : tests.find? (fun y => y.1) with
    | some x =>
      rw [command_of_test hf hx] at h
      cases h
      exact .inr (.inl ⟨rfl, x, List.mem_of_find?_eq_some hx, by simpa using List.find?_some hx, rfl⟩)
    | none =>
      have hall : ∀ x ∈ tests, x.1 = false := fun x hx' => by simpa using List.find?_eq_none.1 hx x hx'
      rw [command_of_no_test hf hall] at h
      cases h
      exact .inr (.inr ⟨rfl, hall, rfl⟩)

/-- A command never ends a run: its outcome is a next state. -/
theorem command_isNext (tests : List (Bool × FaultCode)) (effect : State → State) (s : State) :
    ∃ t, command tests effect s = .next t := by
  unfold command
  split
  · exact ⟨_, rfl⟩
  · split <;> exact ⟨_, rfl⟩

/-- An illegal word while FAULT = 0 (rule R66). -/
theorem illegalWord_of_ready (h : s.fault = false) : illegalWord s = .next (raiseFault .illegal s) :=
  command_of_test (x := (true, .illegal)) h rfl

/-- An illegal word while FAULT = 1 (rule R179). -/
theorem illegalWord_of_faulted (h : s.fault = true) : illegalWord s = .next s := command_of_faulted h

/-! ### One step, by what the host does next -/

theorem step_of_nothing (h : s.pending = []) : step s = .next s := by simp [step, hostStep, nextEvent, h]

theorem step_of_resetInput {rest : List HostEvent} (h : s.pending = .resetInput :: rest) :
    step s = .next (resetCore { s with pending := rest }) := by simp [step, hostStep, nextEvent, h]

theorem step_of_command {w : Word} {rest : List HostEvent} (h : s.pending = .command w :: rest) :
    step s = match decode w with
      | some i => exec i { s with pending := rest }
      | none => illegalWord { s with pending := rest } := by
  cases s
  cases h
  rfl

/-- The word `withFetchWord` stores is the word the next step executes. -/
theorem step_withFetchWord (s : State) (nbits w : Nat) :
    step (s.withFetchWord nbits w) = match decodeTableWord nbits w with
      | some i => exec i s
      | none => illegalWord s := rfl

/-! ### Any instance of the parameters -/

/-- At the defaults the parametric machine is the machine. -/
theorem execOf_params : execOf params = exec := by
  funext i s
  cases i <;> rfl

theorem stepOf_params (s : State) : stepOf params s = step s := by rw [stepOf, execOf_params, step]

/-- A step ends no run if no command does: everything `hostStep` can add to its commands is a next state. -/
theorem hostStep_isNext {run : Instr → State → Host.Outcome State Fault Refusal}
    (h : ∀ i s, ∃ t, run i s = .next t) (s : State) : ∃ t, hostStep run s = .next t := by
  unfold hostStep
  split
  · exact ⟨_, rfl⟩
  · exact ⟨_, rfl⟩
  · split
    · exact h _ _
    · exact command_isNext _ _ _

end Sys2Proof.Machine
end

