-- ==== Sys2Proof/Laws/Memory.lean ====
section
/-! SUPPORT. The laws of the stores: read after write, the frame of a write, the canonical form, and that two canonical
stores that read alike are equal. -/

namespace Sys2Proof.Machine

@[simp] theorem unlisted_bitVec (w : Nat) : (unlisted : BitVec w) = 0#w := rfl

@[simp] theorem unlisted_cell : (unlisted : MCell) = ⟨.U, false⟩ := rfl

section
variable {α : Type} [Inhabited α]

@[simp] theorem Memory.read_nil (i : Nat) : Memory.read ([] : Memory α) i = unlisted := rfl

theorem Memory.read_cons (k : Nat) (x : α) (rest : Memory α) (i : Nat) :
    Memory.read ((k, x) :: rest) i = if k = i then x else Memory.read rest i := rfl

omit [Inhabited α] in
theorem Memory.erase_cons (k : Nat) (x : α) (rest : Memory α) (i : Nat) :
    Memory.erase ((k, x) :: rest) i = if k = i then Memory.erase rest i else (k, x) :: Memory.erase rest i := by
  by_cases h : k = i <;> simp [Memory.erase, h]

omit [Inhabited α] in
theorem Memory.mem_erase {m : Memory α} {i : Nat} {e : Nat × α} :
    e ∈ Memory.erase m i ↔ e ∈ m ∧ e.1 ≠ i := by
  simp [Memory.erase]

/-- A read that finds no entry gives the value of an unlisted index. -/
theorem Memory.read_of_not_listed {m : Memory α} {i : Nat} (h : ∀ e ∈ m, e.1 ≠ i) :
    Memory.read m i = unlisted := by
  induction m with
  | nil => rfl
  | cons e rest ih =>
    obtain ⟨k, x⟩ := e
    have hk : k ≠ i := h (k, x) (by simp)
    rw [Memory.read_cons, if_neg hk]
    exact ih (fun e he => h e (by simp [he]))

theorem Memory.read_erase (m : Memory α) (i j : Nat) :
    Memory.read (Memory.erase m i) j = if j = i then unlisted else Memory.read m j := by
  induction m with
  | nil => simp [Memory.erase]
  | cons e rest ih =>
    obtain ⟨k, x⟩ := e
    rw [Memory.erase_cons]
    by_cases hk : k = i
    · rw [if_pos hk, ih, Memory.read_cons]
      split
      · rfl
      · rw [if_neg (by omega)]
    · rw [if_neg hk, Memory.read_cons, Memory.read_cons, ih]
      by_cases hkj : k = j
      · rw [if_pos hkj, if_pos hkj, if_neg (by omega)]
      · rw [if_neg hkj, if_neg hkj]

section
variable [DecidableEq α]

theorem Memory.write_nil (i : Nat) (v : α) :
    Memory.write ([] : Memory α) i v = if v = unlisted then [] else [(i, v)] := rfl

theorem Memory.write_cons (k : Nat) (x : α) (rest : Memory α) (i : Nat) (v : α) :
    Memory.write ((k, x) :: rest) i v =
      if k < i then (k, x) :: Memory.write rest i v
      else if v = unlisted then Memory.erase ((k, x) :: rest) i
      else (i, v) :: Memory.erase ((k, x) :: rest) i := rfl

/-- Read after write (rule R41), in every store, canonical or not. -/
theorem Memory.read_write (m : Memory α) (i : Nat) (v : α) (j : Nat) :
    Memory.read (Memory.write m i v) j = if j = i then v else Memory.read m j := by
  induction m with
  | nil =>
    by_cases hv : v = unlisted
    · simp [Memory.write_nil, hv]
    · rw [Memory.write_nil, if_neg hv, Memory.read_cons]
      by_cases h : j = i
      · simp [h]
      · simp [h, Ne.symm h]
  | cons e rest ih =>
    obtain ⟨k, x⟩ := e
    rw [Memory.write_cons]
    by_cases hk : k < i
    · rw [if_pos hk, Memory.read_cons, ih, Memory.read_cons]
      by_cases hkj : k = j
      · have : j ≠ i := by omega
        simp [hkj, this]
      · simp [hkj]
    · rw [if_neg hk]
      by_cases hv : v = unlisted
      · rw [if_pos hv, Memory.read_erase, hv]
      · rw [if_neg hv, Memory.read_cons, Memory.read_erase]
        by_cases h : j = i
        · simp [h]
        · simp [h, Ne.symm h]

@[simp] theorem Memory.read_write_same (m : Memory α) (i : Nat) (v : α) :
    Memory.read (Memory.write m i v) i = v := by simp [Memory.read_write]

theorem Memory.read_write_of_ne {i j : Nat} (h : j ≠ i) (m : Memory α) (v : α) :
    Memory.read (Memory.write m i v) j = Memory.read m j := by simp [Memory.read_write, h]

/-- What a written store lists: old entries at other indices, and the new one. -/
theorem Memory.mem_write {m : Memory α} {i : Nat} {v : α} {e : Nat × α} (h : e ∈ Memory.write m i v) :
    e ∈ m ∨ (e = (i, v) ∧ v ≠ unlisted) := by
  induction m with
  | nil =>
    rw [Memory.write_nil] at h
    by_cases hv : v = unlisted
    · simp [hv] at h
    · simp [hv] at h; exact .inr ⟨h, hv⟩
  | cons f rest ih =>
    obtain ⟨k, x⟩ := f
    rw [Memory.write_cons] at h
    split at h
    · rcases List.mem_cons.1 h with h | h
      · exact .inl (by simp [h])
      · exact (ih h).imp (fun h => by simp [h]) id
    · split at h
      · exact .inl (Memory.mem_erase.1 h).1
      · next hv =>
        rcases List.mem_cons.1 h with h | h
        · exact .inr ⟨h, hv⟩
        · exact .inl (Memory.mem_erase.1 h).1

/-! ### The canonical form -/

theorem Memory.wf_iff {m : Memory α} :
    Memory.wf m = true ↔ m.Pairwise (fun x y => x.1 < y.1) ∧ ∀ e ∈ m, e.2 ≠ unlisted := by
  simp [Memory.wf]

@[simp] theorem Memory.wf_nil : Memory.wf ([] : Memory α) = true := rfl

theorem Memory.wf_cons {e : Nat × α} {rest : Memory α} :
    Memory.wf (e :: rest) = true ↔
      (∀ f ∈ rest, e.1 < f.1) ∧ e.2 ≠ unlisted ∧ Memory.wf rest = true := by
  simp only [Memory.wf_iff, List.pairwise_cons, List.mem_cons, forall_eq_or_imp]
  tauto

theorem Memory.erase_wf {m : Memory α} (h : Memory.wf m = true) (i : Nat) : Memory.wf (Memory.erase m i) = true := by
  rw [Memory.wf_iff] at h ⊢
  exact ⟨h.1.filter _, fun e he => h.2 e (Memory.mem_erase.1 he).1⟩

/-- A write keeps the canonical form. -/
theorem Memory.write_wf {m : Memory α} (h : Memory.wf m = true) (i : Nat) (v : α) :
    Memory.wf (Memory.write m i v) = true := by
  induction m with
  | nil =>
    by_cases hv : v = unlisted
    · simp [Memory.write_nil, hv]
    · simp [Memory.write_nil, Memory.wf_cons, hv]
  | cons e rest ih =>
    obtain ⟨k, x⟩ := e
    obtain ⟨hlt, hx, hrest⟩ := Memory.wf_cons.1 h
    rw [Memory.write_cons]
    split
    · next hk =>
      refine Memory.wf_cons.2 ⟨fun f hf => ?_, hx, ih hrest⟩
      rcases Memory.mem_write hf with hf | ⟨rfl, -⟩
      · exact hlt f hf
      · exact hk
    · next hk =>
      split
      · exact Memory.erase_wf h i
      · next hv =>
        refine Memory.wf_cons.2 ⟨fun f hf => ?_, hv, Memory.erase_wf h i⟩
        obtain ⟨hf, hne⟩ := Memory.mem_erase.1 hf
        show i < f.1
        rcases List.mem_cons.1 hf with rfl | hf
        · simp only at hne; omega
        · have := hlt f hf
          simp only at this; omega

/-- A write at an index below the depth keeps every index below the depth. -/
theorem Memory.write_within {depth : Nat} {m : Memory α} (h : Memory.within depth m = true) {i : Nat} (hi : i < depth)
    (v : α) : Memory.within depth (Memory.write m i v) = true := by
  simp only [Memory.within, List.all_eq_true, decide_eq_true_eq] at h ⊢
  intro e he
  rcases Memory.mem_write he with he | ⟨rfl, -⟩
  · exact h e he
  · exact hi

/-- Two canonical stores that read alike at every index are the same list. -/
theorem Memory.ext_of_wf {m n : Memory α} (hm : Memory.wf m = true) (hn : Memory.wf n = true)
    (h : ∀ i, Memory.read m i = Memory.read n i) : m = n := by
  induction m generalizing n with
  | nil =>
    cases n with
    | nil => rfl
    | cons f rest =>
      obtain ⟨k, y⟩ := f
      have := h k
      simp only [Memory.read_nil, Memory.read_cons, if_true] at this
      exact absurd this.symm (Memory.wf_cons.1 hn).2.1
  | cons e rest ih =>
    obtain ⟨k, x⟩ := e
    obtain ⟨hlt, hx, hrest⟩ := Memory.wf_cons.1 hm
    cases n with
    | nil =>
      have := h k
      simp only [Memory.read_nil, Memory.read_cons, if_true] at this
      exact absurd this hx
    | cons f tail =>
      obtain ⟨l, y⟩ := f
      obtain ⟨hlt', hy, htail⟩ := Memory.wf_cons.1 hn
      have hnot : ∀ {r : Memory α} {a b : Nat}, (∀ f ∈ r, b < f.1) → a ≤ b → Memory.read r a = unlisted :=
        fun hr hab => Memory.read_of_not_listed (fun e he => by have := hr e he; omega)
      have hkl : k = l := by
        rcases Nat.lt_trichotomy k l with hlt2 | h2 | hlt2
        · have := h k
          rw [Memory.read_cons, if_pos rfl, Memory.read_cons, if_neg (by omega), hnot hlt' (by omega)] at this
          exact absurd this hx
        · exact h2
        · have := h l
          rw [Memory.read_cons, if_neg (by omega), hnot hlt (by omega), Memory.read_cons, if_pos rfl] at this
          exact absurd this.symm hy
      subst hkl
      have hxy : x = y := by simpa [Memory.read_cons] using h k
      subst hxy
      have : rest = tail := by
        refine ih hrest htail (fun i => ?_)
        by_cases hi : k = i
        · subst hi; rw [hnot hlt (le_refl _), hnot hlt' (le_refl _)]
        · simpa [Memory.read_cons, hi] using h i
      rw [this]

/-- Writing what a canonical store already reads changes nothing. -/
theorem Memory.write_read_self {m : Memory α} (h : Memory.wf m = true) (i : Nat) :
    Memory.write m i (Memory.read m i) = m :=
  Memory.ext_of_wf (Memory.write_wf h i _) h (fun j => by by_cases hj : j = i <;> simp [Memory.read_write, hj])

/-! ### Loops of writes -/

/-- A loop whose body writes `f i` at index `g i`: what it leaves at an index it does not write. -/
theorem Memory.read_foldl_write_of_not_mem {β : Type} (l : List β) (g : β → Nat) (f : Memory α → β → α) (m : Memory α)
    {j : Nat} (hj : ∀ b ∈ l, g b ≠ j) :
    Memory.read (l.foldl (fun m b => Memory.write m (g b) (f m b)) m) j = Memory.read m j := by
  induction l generalizing m with
  | nil => rfl
  | cons b rest ih =>
    rw [List.foldl_cons, ih _ (fun c hc => hj c (by simp [hc]))]
    exact Memory.read_write_of_ne (fun h => hj b (by simp) h.symm) m _

/-- The canonical form survives a loop that keeps it at every turn. -/
theorem Memory.foldl_wf {β : Type} (l : List β) (step : Memory α → β → Memory α)
    (hstep : ∀ m b, Memory.wf m = true → Memory.wf (step m b) = true) {m : Memory α} (h : Memory.wf m = true) :
    Memory.wf (l.foldl step m) = true := by
  induction l generalizing m with
  | nil => exact h
  | cons b rest ih => exact ih (hstep m b h)

/-- A loop that writes, at each index of a list without repeats, a value that does not depend on the store. -/
theorem Memory.read_foldl_write (l : List Nat) (f : Nat → α) (m : Memory α) (j : Nat) :
    Memory.read (l.foldl (fun m i => Memory.write m i (f i)) m) j = if j ∈ l then f j else Memory.read m j := by
  induction l generalizing m with
  | nil => simp
  | cons i rest ih =>
    rw [List.foldl_cons, ih]
    by_cases hj : j ∈ rest
    · simp [hj]
    · by_cases hji : j = i
      · simp [hji]
      · simp [hj, hji, Memory.read_write]

end
end

end Sys2Proof.Machine
end

