-- ==== Sys2Proof/Laws/Effects.lean ====
section
/-! SUPPORT. The frame of every unit's effect, and what its loops leave in the stores. -/

namespace Sys2Proof.Machine

/-! ### What each effect may change: the whole state is the old one but for the fields named -/

theorem gfinitEffect_frame (s : State) :
    ∃ e l, gfinitEffect s = { s with exp := e, log := l, tblv := true } := ⟨_, _, rfl⟩

theorem rsgenEffect_frame (n : Nat) (s : State) :
    ∃ g, rsgenEffect n s = { s with gen := g, genn := BitVec.ofNat 8 n, genv := true } := ⟨_, rfl⟩

theorem rsclrEffect_frame (s : State) : ∃ r, rsclrEffect s = { s with reg := r } := ⟨_, rfl⟩

theorem rsstepEffect_frame (d : Byte) (s : State) : ∃ r, rsstepEffect d s = { s with reg := r } := ⟨_, rfl⟩

theorem feedData_frame (k : Nat) (s : State) : ∃ r, feedData k s = { s with reg := r } := by
  have general : ∀ (l : List Nat) (s : State),
      ∃ r, l.foldl (fun s i => rsstepEffect (Memory.read s.cw i) s) s = { s with reg := r } := by
    intro l
    induction l with
    | nil => intro s; exact ⟨s.reg, rfl⟩
    | cons i rest ih =>
      intro s
      obtain ⟨r, hr⟩ := ih (rsstepEffect (Memory.read s.cw i) s)
      exact ⟨r, by rw [List.foldl_cons, hr]; rfl⟩
  exact general _ s

theorem storeCheckBytes_frame (n k : Nat) (s : State) : ∃ c, storeCheckBytes n k s = { s with cw := c } := ⟨_, rfl⟩

theorem rsencEffect_frame (P : Params) (s : State) :
    ∃ g r c, rsencEffect P s =
      { s with gen := g, genn := BitVec.ofNat 8 (P.ecc s.ver.toNat), genv := true, reg := r, cw := c } := by
  obtain ⟨g, hg⟩ := rsgenEffect_frame (P.ecc s.ver.toNat) s
  obtain ⟨q, hq⟩ := rsclrEffect_frame (rsgenEffect (P.ecc s.ver.toNat) s)
  obtain ⟨r, hr⟩ := feedData_frame (P.data s.ver.toNat) (rsclrEffect (rsgenEffect (P.ecc s.ver.toNat) s))
  obtain ⟨c, hc⟩ := storeCheckBytes_frame (P.ecc s.ver.toNat) (P.data s.ver.toNat)
    (feedData (P.data s.ver.toNat) (rsclrEffect (rsgenEffect (P.ecc s.ver.toNat) s)))
  exact ⟨g, r, c, by simp only [rsencEffect]; rw [hc, hr, hq, hg]⟩

theorem packEffect_frame (P : Params) (s : State) :
    ∃ c, packEffect P s = { s with cw := c, chtrunc := anyTruncated s.len.toNat s.pay } := ⟨_, rfl⟩

theorem mbuildEffect_frame (P : Params) (s : State) :
    ∃ m, mbuildEffect P s = { s with mat := m, matv := true, masked := false } := ⟨_, rfl⟩

theorem placeEffect_frame (P : Params) (s : State) :
    ∃ m, placeEffect P s = { s with mat := m, wright := 1, wi := 0, wj := false, wup := true, wact := false,
                                    wdone := true } := ⟨_, rfl⟩

theorem maskEffect_frame (s : State) : ∃ m, maskEffect s = { s with mat := m, masked := !s.masked } := ⟨_, rfl⟩

theorem fmtEffect_frame (P : Params) (s : State) : ∃ m, fmtEffect P s = { s with mat := m } := ⟨_, rfl⟩

theorem advanceWalker_frame (s : State) :
    ∃ wr i j up act done, advanceWalker s =
      { s with wright := wr, wi := i, wj := j, wup := up, wact := act, wdone := done } := by
  unfold advanceWalker nextPair
  split
  · exact ⟨_, _, _, _, _, _, rfl⟩
  · split
    · exact ⟨_, _, _, _, _, _, rfl⟩
    · dsimp only
      split <;> exact ⟨_, _, _, _, _, _, rfl⟩

/-! ### What the loops leave -/

@[simp] theorem mem_upTo {a b i : Nat} : i ∈ upTo a b ↔ a ≤ i ∧ i ≤ b := by
  simp only [upTo, List.mem_range'_1]
  omega

@[simp] theorem mem_downTo {a b i : Nat} : i ∈ downTo b a ↔ a ≤ i ∧ i ≤ b := by simp [downTo]

@[simp] theorem mem_square {n r c : Nat} : (r, c) ∈ square n ↔ r < n ∧ c < n := by
  simp [square]

/-- REG after RSCLR (rule R92). -/
theorem read_clearRegister (n : Nat) (reg : Memory Byte) (j : Nat) :
    Memory.read (clearRegister n reg) j = if j < n then 0#8 else Memory.read reg j := by
  rw [clearRegister, Memory.read_foldl_write]
  simp

/-- GEN when RSGEN starts (rule R91). -/
theorem read_startGenerator (n : Nat) (gen : Memory Byte) (j : Nat) :
    Memory.read (startGenerator n gen) j =
      if j = 0 then 1#8 else if j ≤ n then 0#8 else Memory.read gen j := by
  rw [startGenerator, Memory.read_foldl_write]
  by_cases hj : j = 0
  · simp [hj]
  · have : 1 ≤ j := by omega
    simp [hj, this, Memory.read_write]

@[simp] theorem gfmul_zero_left (exp log : Memory Byte) (b : Byte) : gfmul exp log 0#8 b = 0#8 := by simp [gfmul]

@[simp] theorem gfmul_zero_right (exp log : Memory Byte) (a : Byte) : gfmul exp log a 0#8 = 0#8 := by simp [gfmul]

theorem gfmul_comm (exp log : Memory Byte) (a b : Byte) : gfmul exp log a b = gfmul exp log b a := by
  simp only [gfmul, or_comm (a := a = 0#8), Nat.add_comm (Memory.read log a.toNat).toNat]

/-- Distinct cells of the 57 × 57 matrix have distinct indices. -/
theorem cellIndex_inj {r c r' c' : Nat} (hc : c < Config.matDim) (hc' : c' < Config.matDim)
    (h : cellIndex r c = cellIndex r' c') : r = r' ∧ c = c' := by
  simp only [cellIndex, Config.matDim] at *
  omega

theorem cellAt_putCell (mat : Memory MCell) (r c r' c' : Nat) (x : MCell) :
    cellAt (putCell mat r c x) r' c' = if cellIndex r' c' = cellIndex r c then x else cellAt mat r' c' := by
  simp [cellAt, putCell, Memory.read_write]

theorem evolvesTo_refl {x : MCell} (hD : x.cls ≠ .D) (hF : x.cls ≠ .F)
    (hU : x.cls = .U → x.val = false) (hR : x.cls = .R → x.val = false) : evolvesTo x x = true := by
  obtain ⟨cls, val⟩ := x
  cases cls <;> simp_all [evolvesTo]

/-- A cell as a skeleton holds it (rule R126): unset, reserved, or structural. -/
def SkeletonLike (x : MCell) : Prop := x = ⟨.U, false⟩ ∨ x = ⟨.R, false⟩ ∨ x.cls = .S

theorem SkeletonLike.evolves {x : MCell} (h : SkeletonLike x) : evolvesTo x x = true := by
  rcases h with rfl | rfl | h
  · rfl
  · rfl
  · exact evolvesTo_refl (by simp [h]) (by simp [h]) (by simp [h]) (by simp [h])

/-- A property of every cell is kept by a loop whose turns keep it. -/
theorem foldl_keeps_cells {β : Type} {Q : MCell → Prop} (l : List β) (turn : Memory MCell → β → Memory MCell)
    (hturn : ∀ m b, (∀ i, Q (Memory.read m i)) → ∀ i, Q (Memory.read (turn m b) i)) :
    ∀ m : Memory MCell, (∀ i, Q (Memory.read m i)) → ∀ i, Q (Memory.read (l.foldl turn m) i) := by
  induction l with
  | nil => exact fun m h => h
  | cons b rest ih => exact fun m h => ih (turn m b) (hturn m b h)

theorem putCell_keeps_cells {Q : MCell → Prop} {mat : Memory MCell} {x : MCell} (h : ∀ i, Q (Memory.read mat i))
    (hx : Q x) (r c : Nat) : ∀ i, Q (Memory.read (putCell mat r c x) i) := by
  intro i
  rw [putCell, Memory.read_write]
  split
  · exact hx
  · exact h i

theorem claimCell_keeps_cells {Q : MCell → Prop} {mat : Memory MCell} {x : MCell} (h : ∀ i, Q (Memory.read mat i))
    (hx : Q x) (r c : Nat) : ∀ i, Q (Memory.read (claimCell mat r c x) i) := by
  unfold claimCell
  split
  · exact putCell_keeps_cells h hx r c
  · exact h

/-- Every cell MBUILD leaves is unset, reserved or structural, if every cell outside the square was (rule R126). -/
theorem buildSkeleton_cells (P : Params) (v : Nat) {mat : Memory MCell} (h : ∀ i, SkeletonLike (Memory.read mat i)) :
    ∀ i, SkeletonLike (Memory.read (buildSkeleton P v mat) i) := by
  have clear : ∀ n m, (∀ i, SkeletonLike (Memory.read m i)) → ∀ i, SkeletonLike (Memory.read (clearSquare n m) i) :=
    fun n m hm => foldl_keeps_cells _ _ (fun m p hm => putCell_keeps_cells hm (.inl rfl) p.1 p.2) m hm
  have finder : ∀ n r c m, (∀ i, SkeletonLike (Memory.read m i)) →
      ∀ i, SkeletonLike (Memory.read (stampFinder n r c m) i) := fun n r c m hm =>
    foldl_keeps_cells _ _ (fun m d hm => by
      dsimp only
      split
      · exact putCell_keeps_cells hm (.inr (.inr rfl)) _ _
      · exact hm) m hm
  have timing : ∀ n m, (∀ i, SkeletonLike (Memory.read m i)) → ∀ i, SkeletonLike (Memory.read (stampTiming n m) i) :=
    fun n m hm => foldl_keeps_cells _ _ (fun m k hm =>
      claimCell_keeps_cells (claimCell_keeps_cells hm (.inr (.inr rfl)) _ _) (.inr (.inr rfl)) _ _) m hm
  have dark : ∀ n m, (∀ i, SkeletonLike (Memory.read m i)) → ∀ i, SkeletonLike (Memory.read (stampDark n m) i) :=
    fun n m hm => putCell_keeps_cells hm (.inr (.inr rfl)) _ _
  have align : ∀ n r c m, (∀ i, SkeletonLike (Memory.read m i)) →
      ∀ i, SkeletonLike (Memory.read (stampAlign n r c m) i) := fun n r c m hm =>
    foldl_keeps_cells _ _ (fun m d hm => by
      dsimp only
      split
      · exact claimCell_keeps_cells hm (.inr (.inr rfl)) _ _
      · exact hm) m hm
  have reserve : ∀ n m, (∀ i, SkeletonLike (Memory.read m i)) →
      ∀ i, SkeletonLike (Memory.read (reserveFormat n m) i) := fun n m hm =>
    foldl_keeps_cells _ _ (fun m e hm => claimCell_keeps_cells hm (.inr (.inl rfl)) _ _) m hm
  have stamped := dark (side v) _ (timing (side v) _ (finder (side v) (side v - 7) 0 _ (finder (side v) 0 (side v - 7) _
    (finder (side v) 0 0 _ (clear (side v) mat h)))))
  unfold buildSkeleton
  dsimp only
  refine reserve _ _ ?_
  split
  · exact align _ _ _ _ stamped
  · exact stamped

end Sys2Proof.Machine
end

