-- ==== Sys2Proof/Laws/PerInstr.lean ====
section
/-! SUPPORT. Statements made per command: the round trip of the encoding. -/

namespace Sys2Proof

/-- Bit i of a packed word: b below, then a, then op (rule R60). -/
theorem getLsbD_packWord (op : BitVec 6) (a : BitVec 10) (b : BitVec 16) (i : Nat) :
    (packWord op a b).getLsbD i =
      if i < 16 then b.getLsbD i else if i - 16 < 10 then a.getLsbD (i - 16) else op.getLsbD (i - 16 - 10) := by
  change BitVec.getLsbD (w := 6 + 10 + 16) (op ++ a ++ b) i = _
  rw [BitVec.getLsbD_append, BitVec.getLsbD_append]

theorem fieldOp_packWord (op : BitVec 6) (a : BitVec 10) (b : BitVec 16) : fieldOp (packWord op a b) = op := by
  apply BitVec.eq_of_getLsbD_eq
  intro i hi
  rw [fieldOp, BitVec.getLsbD_extractLsb', getLsbD_packWord, if_neg (by omega), if_neg (by omega),
    show 26 + i - 16 - 10 = i by omega]
  simp [hi]

theorem fieldA_packWord (op : BitVec 6) (a : BitVec 10) (b : BitVec 16) : fieldA (packWord op a b) = a := by
  apply BitVec.eq_of_getLsbD_eq
  intro i hi
  rw [fieldA, BitVec.getLsbD_extractLsb', getLsbD_packWord, if_neg (by omega), if_pos (by omega),
    show 16 + i - 16 = i by omega]
  simp [hi]

theorem fieldB_packWord (op : BitVec 6) (a : BitVec 10) (b : BitVec 16) : fieldB (packWord op a b) = b := by
  apply BitVec.eq_of_getLsbD_eq
  intro i hi
  rw [fieldB, BitVec.getLsbD_extractLsb', getLsbD_packWord, if_pos (by omega)]
  simp [hi]

theorem highByte_append (x y : Byte) : highByte (x ++ y) = x := by
  apply BitVec.eq_of_getLsbD_eq
  intro i hi
  rw [highByte, BitVec.getLsbD_extractLsb']
  change (decide (i < 8) && BitVec.getLsbD (w := 8 + 8) (x ++ y) (8 + i)) = _
  rw [BitVec.getLsbD_append]
  simp [hi]

theorem lowByte_append (x y : Byte) : lowByte (x ++ y) = y := by
  apply BitVec.eq_of_getLsbD_eq
  intro i hi
  rw [lowByte, BitVec.getLsbD_extractLsb']
  change (decide (i < 8) && BitVec.getLsbD (w := 8 + 8) (x ++ y) (0 + i)) = _
  rw [BitVec.getLsbD_append]
  simp [hi]

/-- A packed word as a number, as the "Encoding" lines of the command rules write it. -/
theorem toNat_packWord (op : BitVec 6) (a : BitVec 10) (b : BitVec 16) :
    (packWord op a b).toNat = 2 ^ 26 * op.toNat + 2 ^ 16 * a.toNat + b.toNat := by
  have high : (op ++ a).toNat = 2 ^ 10 * op.toNat + a.toNat := by
    rw [BitVec.toNat_append, ← Nat.shiftLeft_add_eq_or_of_lt a.isLt, Nat.shiftLeft_eq]
    omega
  change BitVec.toNat (w := 6 + 10 + 16) (op ++ a ++ b) = _
  rw [BitVec.toNat_append, ← Nat.shiftLeft_add_eq_or_of_lt b.isLt, Nat.shiftLeft_eq, high]
  omega

namespace Laws.RoundTrip

/-- Decoding the word of a command gives the command back, with every operand at every value (rules R60 to R64). -/
def Statement (i : Instr) : Prop := decode (Sys2Proof.encode i) = some i

theorem nop : Statement (.nop) := by
  simp [Statement, Sys2Proof.encode, decode, fieldOp_packWord, fieldA_packWord, fieldB_packWord, formatZ]

theorem reset : Statement (.reset) := by
  simp [Statement, Sys2Proof.encode, decode, fieldOp_packWord, fieldA_packWord, fieldB_packWord, formatZ]

theorem encode : Statement (.encode) := by
  simp [Statement, Sys2Proof.encode, decode, fieldOp_packWord, fieldA_packWord, fieldB_packWord, formatZ]

theorem gfinit : Statement (.gfinit) := by
  simp [Statement, Sys2Proof.encode, decode, fieldOp_packWord, fieldA_packWord, fieldB_packWord, formatZ]

theorem rsclr : Statement (.rsclr) := by
  simp [Statement, Sys2Proof.encode, decode, fieldOp_packWord, fieldA_packWord, fieldB_packWord, formatZ]

theorem rsenc : Statement (.rsenc) := by
  simp [Statement, Sys2Proof.encode, decode, fieldOp_packWord, fieldA_packWord, fieldB_packWord, formatZ]

theorem vsel : Statement (.vsel) := by
  simp [Statement, Sys2Proof.encode, decode, fieldOp_packWord, fieldA_packWord, fieldB_packWord, formatZ]

theorem pack : Statement (.pack) := by
  simp [Statement, Sys2Proof.encode, decode, fieldOp_packWord, fieldA_packWord, fieldB_packWord, formatZ]

theorem mbuild : Statement (.mbuild) := by
  simp [Statement, Sys2Proof.encode, decode, fieldOp_packWord, fieldA_packWord, fieldB_packWord, formatZ]

theorem winit : Statement (.winit) := by
  simp [Statement, Sys2Proof.encode, decode, fieldOp_packWord, fieldA_packWord, fieldB_packWord, formatZ]

theorem wnext : Statement (.wnext) := by
  simp [Statement, Sys2Proof.encode, decode, fieldOp_packWord, fieldA_packWord, fieldB_packWord, formatZ]

theorem place : Statement (.place) := by
  simp [Statement, Sys2Proof.encode, decode, fieldOp_packWord, fieldA_packWord, fieldB_packWord, formatZ]

theorem mask : Statement (.mask) := by
  simp [Statement, Sys2Proof.encode, decode, fieldOp_packWord, fieldA_packWord, fieldB_packWord, formatZ]

theorem fmt : Statement (.fmt) := by
  simp [Statement, Sys2Proof.encode, decode, fieldOp_packWord, fieldA_packWord, fieldB_packWord, formatZ]

theorem rdreg (a : BitVec 10) : Statement (.rdreg a) := by
  simp [Statement, Sys2Proof.encode, decode, fieldOp_packWord, fieldA_packWord, fieldB_packWord, formatA]

theorem rsrd (a : BitVec 10) : Statement (.rsrd a) := by
  simp [Statement, Sys2Proof.encode, decode, fieldOp_packWord, fieldA_packWord, fieldB_packWord, formatA]

theorem genrd (a : BitVec 10) : Statement (.genrd a) := by
  simp [Statement, Sys2Proof.encode, decode, fieldOp_packWord, fieldA_packWord, fieldB_packWord, formatA]

theorem cwrd (a : BitVec 10) : Statement (.cwrd a) := by
  simp [Statement, Sys2Proof.encode, decode, fieldOp_packWord, fieldA_packWord, fieldB_packWord, formatA]

theorem payrd (a : BitVec 10) : Statement (.payrd a) := by
  simp [Statement, Sys2Proof.encode, decode, fieldOp_packWord, fieldA_packWord, fieldB_packWord, formatA]

theorem gfexp (b : BitVec 16) : Statement (.gfexp b) := by
  simp [Statement, Sys2Proof.encode, decode, fieldOp_packWord, fieldA_packWord, fieldB_packWord, formatB]

theorem gflog (b : BitVec 16) : Statement (.gflog b) := by
  simp [Statement, Sys2Proof.encode, decode, fieldOp_packWord, fieldA_packWord, fieldB_packWord, formatB]

theorem rsgen (b : BitVec 16) : Statement (.rsgen b) := by
  simp [Statement, Sys2Proof.encode, decode, fieldOp_packWord, fieldA_packWord, fieldB_packWord, formatB]

theorem rsstep (b : BitVec 16) : Statement (.rsstep b) := by
  simp [Statement, Sys2Proof.encode, decode, fieldOp_packWord, fieldA_packWord, fieldB_packWord, formatB]

theorem setlen (b : BitVec 16) : Statement (.setlen b) := by
  simp [Statement, Sys2Proof.encode, decode, fieldOp_packWord, fieldA_packWord, fieldB_packWord, formatB]

theorem setver (b : BitVec 16) : Statement (.setver b) := by
  simp [Statement, Sys2Proof.encode, decode, fieldOp_packWord, fieldA_packWord, fieldB_packWord, formatB]

theorem paywr (a : BitVec 10) (b : BitVec 16) : Statement (.paywr a b) := by
  simp [Statement, Sys2Proof.encode, decode, fieldOp_packWord, fieldA_packWord, fieldB_packWord]

theorem cwwr (a : BitVec 10) (b : BitVec 16) : Statement (.cwwr a b) := by
  simp [Statement, Sys2Proof.encode, decode, fieldOp_packWord, fieldA_packWord, fieldB_packWord]

theorem mrd (a : BitVec 10) (b : BitVec 16) : Statement (.mrd a b) := by
  simp [Statement, Sys2Proof.encode, decode, fieldOp_packWord, fieldA_packWord, fieldB_packWord]

theorem gfmul (x y : BitVec 8) : Statement (.gfmul x y) := by
  simp [Statement, Sys2Proof.encode, decode, fieldOp_packWord, fieldA_packWord, fieldB_packWord, formatB, highByte_append,
    lowByte_append]

end Laws.RoundTrip

end Sys2Proof
end

