-- ==== Sys2Proof/Machine/Assembly.lean ====
section
/-! DEFINITION. The spec's assembly notation (rules R68, R69): one line of text to the commands it stands for. It is
notation of the host; the core sees the words. -/

namespace Sys2Proof.Machine

/-- The pieces of a line. -/
inductive AsmToken where
  | word (cs : List Char)
  | comma
  | quoted (cs : List Char)
  | bad
  deriving DecidableEq, Repr

/-- A piece that is being read: none, a word so far, or a quoted text so far with its closing quote. -/
inductive AsmPart where
  | none
  | word (cs : List Char)
  | quoted (close : Char) (cs : List Char)
  deriving DecidableEq, Repr

/-- The token of a finished piece; an unclosed quote is bad. -/
def AsmPart.flush : AsmPart → List AsmToken
  | .none => []
  | .word cs => [.word cs]
  | .quoted _ _ => [.bad]

/-- One more character of a word. -/
def AsmPart.push (p : AsmPart) (c : Char) : AsmPart :=
  match p with
  | .none => .word [c]
  | .word cs => .word (cs ++ [c])
  | .quoted q cs => .quoted q (cs ++ [c])

/-- The tokens of a line (rule R68): blanks separate, a comma stands alone, quotes hold characters, and a semicolon
outside quotes starts a comment. -/
def lexLine : List Char → AsmPart → List AsmToken
  | [], p => p.flush
  | c :: rest, .quoted q cs =>
    if c = q then .quoted cs :: lexLine rest .none else lexLine rest (.quoted q (cs ++ [c]))
  | c :: rest, p =>
    if c = ';' then p.flush
    else if c = ' ' ∨ c = '\t' then p.flush ++ lexLine rest .none
    else if c = ',' then p.flush ++ .comma :: lexLine rest .none
    else if c = '\'' ∨ c = '"' then p.flush ++ lexLine rest (.quoted c [])
    else lexLine rest (p.push c)

/-- The value of a hexadecimal digit. -/
def digitValue (c : Char) : Option Nat :=
  let n := c.toNat
  if 48 ≤ n ∧ n ≤ 57 then some (n - 48)
  else if 65 ≤ n ∧ n ≤ 70 then some (n - 55)
  else if 97 ≤ n ∧ n ≤ 102 then some (n - 87)
  else none

/-- A number in the given base from its digits, most significant first. -/
def digitsValue (base : Nat) (cs : List Char) : Option Nat :=
  if cs.isEmpty then none
  else cs.foldl (fun acc c =>
    match acc, digitValue c with
    | some x, some d => if d < base then some (base * x + d) else none
    | _, _ => none) (some 0)

/-- "Numbers are decimal or 0x hexadecimal" (rule R68). -/
def numberValue : List Char → Option Nat
  | '0' :: 'x' :: cs => digitsValue 16 cs
  | cs => digitsValue 10 cs

/-- One operand: a number, or a quoted character standing for its code (rule R68). -/
def operandValue : AsmToken → Option Nat
  | .word cs => numberValue cs
  | .quoted [c] => some c.toNat
  | _ => none

/-- Operands separated by commas (rule R68). -/
def operandValues : List AsmToken → Option (List Nat)
  | [] => some []
  | [t] => (operandValue t).map (fun x => [x])
  | t :: .comma :: u :: rest =>
    match operandValue t, operandValues (u :: rest) with
    | some x, some xs => some (x :: xs)
    | _, _ => none
  | _ => none

/-- An operand that fits a field of `w` bits. -/
def fits (w x : Nat) : Option (BitVec w) := if x < 2 ^ w then some (BitVec.ofNat w x) else none

/-- No operand (format Z). -/
def asmZ (i : Instr) : List Nat → Option Instr
  | [] => some i
  | _ => none

/-- One operand of `w` bits (formats A and B). -/
def asmOne (w : Nat) (f : BitVec w → Instr) : List Nat → Option Instr
  | [x] => (fits w x).map f
  | _ => none

/-- Two operands of `w` and `u` bits (format AB, and GFMUL's two bytes). -/
def asmTwo (w u : Nat) (f : BitVec w → BitVec u → Instr) : List Nat → Option Instr
  | [x, y] =>
    match fits w x, fits u y with
    | some a, some b => some (f a b)
    | _, _ => none
  | _ => none

/-- The mnemonics of rule R63 with the operands they take (rules R61, R68). -/
def asmTable : List (String × (List Nat → Option Instr)) :=
  [("NOP", asmZ .nop), ("RESET", asmZ .reset), ("RDREG", asmOne 10 .rdreg), ("ENCODE", asmZ .encode),
    ("GFINIT", asmZ .gfinit), ("GFMUL", asmTwo 8 8 .gfmul), ("GFEXP", asmOne 16 .gfexp), ("GFLOG", asmOne 16 .gflog)] ++
  [("RSGEN", asmOne 16 .rsgen), ("RSCLR", asmZ .rsclr), ("RSSTEP", asmOne 16 .rsstep), ("RSRD", asmOne 10 .rsrd),
    ("GENRD", asmOne 10 .genrd), ("RSENC", asmZ .rsenc)] ++
  [("PAYWR", asmTwo 10 16 .paywr), ("SETLEN", asmOne 16 .setlen), ("VSEL", asmZ .vsel), ("SETVER", asmOne 16 .setver),
    ("PACK", asmZ .pack), ("CWRD", asmOne 10 .cwrd), ("CWWR", asmTwo 10 16 .cwwr), ("PAYRD", asmOne 10 .payrd)] ++
  [("MBUILD", asmZ .mbuild), ("MRD", asmTwo 10 16 .mrd), ("WINIT", asmZ .winit), ("WNEXT", asmZ .wnext),
    ("PLACE", asmZ .place), ("MASK", asmZ .mask), ("FMT", asmZ .fmt)]

/-- LOADSTR (rule R69): PAYWR 0, c0 up to PAYWR k−1, c(k−1), then SETLEN k. -/
def loadstr (text : List Char16) : List Instr :=
  text.mapIdx (fun k c => Instr.paywr (BitVec.ofNat 10 k) c) ++ [.setlen (BitVec.ofNat 16 text.length)]

/-- The commands one line stands for (rules R68, R69); `none` when the line is not in the notation. A LOADSTR text is
limited to the characters PAYWR can index, and a character to 16 bits. -/
def assembleLine (line : List Char) : Option (List Instr) :=
  match lexLine line .none with
  | [] => some []
  | [.word name, .quoted text] =>
    if name = "LOADSTR".toList ∧ text.length ≤ Config.payDepth ∧ text.all (fun c => decide (c.toNat < 65536)) then
      some (loadstr (text.map (fun c => BitVec.ofNat 16 c.toNat)))
    else none
  | .word name :: rest =>
    match asmTable.find? (fun e => e.1.toList == name), operandValues rest with
    | some e, some xs => (e.2 xs).map (fun i => [i])
    | _, _ => none
  | _ => none

end Sys2Proof.Machine
end

