-- ==== Sys2Proof/Tests/Slice0.lean ====
section
/-! SUPPORT. Tests of the model against the words and vectors of the spec (30_encoding.md, 95_test_vectors.md and the
"Example" lines of the rules), and for every statement with hypotheses a state and operands that meet them. -/

namespace Sys2Proof.Tests

open Sys2Proof.Machine Sys2Proof.Claim

/-! ## Helpers -/

/-- What a function of the next state gives; `none` if there is no next state. -/
def onNext {α : Type} (f : State → α) : Host.Outcome State Fault Refusal → Option α
  | .next t => some (f t)
  | .fault _ => none
  | .refused _ => none

/-- RES after a command. -/
def resAfter (i : Instr) (s : State) : Option Word := onNext State.res (exec i s)

/-- STATUS and ERR after a command. -/
def portsAfter (i : Instr) (s : State) : Option (BitVec 16 × BitVec 8) :=
  onNext (fun t => (t.status, t.err)) (exec i s)

/-- A version has been selected. -/
def withVersion (v : BitVec 4) : State := { State.reset with ver := v, verv := true }

/-- A matrix is declared valid for version 1, with the given cells. -/
def withMatrix (cells : Memory MCell) : State := { withVersion 1 with matv := true, mat := cells }

/-- The tables are declared built, with the given cells. -/
def withTables (exp log : Memory Byte) : State := { State.reset with tblv := true, exp := exp, log := log }

/-- The tables GFINIT builds. -/
def builtTables : State := withTables (buildTables [] []).1 (buildTables [] []).2

/-- A generator of degree n is declared valid, with the given coefficients. -/
def withGenerator (n : BitVec 8) (gen : Memory Byte) (s : State) : State :=
  { s with genv := true, genn := n, gen := gen }

/-- A core that has faulted. -/
def faulted : State := { State.reset with fault := true, err := 0x03 }

/-- The walker registers of an active traversal. -/
def withWalker (right i : BitVec 6) (j up : Bool) (s : State) : State :=
  { s with wact := true, wright := right, wi := i, wj := j, wup := up }

/-! ## Well-formed words (rules R61, R65, R66) -/

theorem test_wellFormed_refuses_reserved_opcodes :
    Word.wellFormed 0xFC000000#32 = false ∧ Word.wellFormed 0x10000000#32 = false ∧
    Word.wellFormed 0x58000000#32 = false ∧ Word.wellFormed 0xC4000000#32 = false := by decide

theorem test_wellFormed_refuses_operands_of_format_Z :
    Word.wellFormed 0x00000001#32 = false ∧ Word.wellFormed 0x04010000#32 = false ∧
    Word.wellFormed 0xC0008000#32 = false := by decide

theorem test_wellFormed_refuses_b_of_format_A :
    Word.wellFormed 0x08000001#32 = false ∧ Word.wellFormed 0x4C010001#32 = false := by decide

theorem test_wellFormed_refuses_a_of_format_B :
    Word.wellFormed 0x280101FF#32 = false ∧ Word.wellFormed 0x66000000#32 = false := by decide

theorem test_wellFormed_accepts_every_operand_of_a_used_field :
    Word.wellFormed 0x0BFF0000#32 = true ∧ Word.wellFormed 0x2C00FFFF#32 = true ∧
    Word.wellFormed 0x63FFFFFF#32 = true ∧ Word.wellFormed 0xC0000000#32 = true := by decide

/-! ## Parameters (rule R7): one broken table for each of P1 to P5 -/

theorem test_params_defaults_meet_the_constraints : params.ok = true := by decide

theorem test_params_refuses_another_first_capacity :
    Params.ok { params with cap := fun v => if v = 1 then 16 else params.cap v } = false := by decide

theorem test_params_refuses_a_falling_capacity :
    Params.ok { params with cap := fun v => if v = 3 then 20 else params.cap v } = false := by decide

theorem test_params_refuses_a_capacity_above_the_budget :
    Params.ok { params with cap := fun v => if v = 2 then 33 else params.cap v } = false := by decide

theorem test_params_refuses_no_check_bytes :
    Params.ok { params with ecc := fun v => if v = 4 then 0 else params.ecc v } = false := by decide

theorem test_params_refuses_an_alignment_outside_the_grid :
    Params.ok { params with align := fun v => if v = 5 then 35 else params.align v } = false := by decide

/-- Another table that meets rule R7: version 2 holds 20 characters. -/
def smallerSecondVersion : Params := { params with cap := fun v => if v = 2 then 20 else params.cap v }

/-- VSEL and PACK take the table they are given (rule R6): 21 characters need version 3, and version 2 refuses them. -/
theorem test_parameters_are_arguments :
    smallerSecondVersion.ok = true ∧
    onNext State.ver (execOf smallerSecondVersion .vsel { State.reset with len := 21 }) = some 3 ∧
    onNext State.ver (exec .vsel { State.reset with len := 21 }) = some 2 ∧
    onNext State.err (stepOf smallerSecondVersion
      ({ withVersion 2 with len := 21 }.withFetchWord 32 0x70000000)) = some 0x05 := by decide

/-! ## Decoding: a word of every command, written out from rules R61 and R63 (op, a, b) -/

theorem test_decode_NOP : decode 0b000000_0000000000_0000000000000000#32 = some .nop := by decide
theorem test_decode_RESET : decode 0b000001_0000000000_0000000000000000#32 = some .reset := by decide
theorem test_decode_RDREG : decode 0b000010_0000000110_0000000000000000#32 = some (.rdreg 6) := by decide
theorem test_decode_ENCODE : decode 0b000011_0000000000_0000000000000000#32 = some .encode := by decide
theorem test_decode_GFINIT : decode 0b001000_0000000000_0000000000000000#32 = some .gfinit := by decide
theorem test_decode_GFMUL : decode 0b001001_0000000000_0000001010000000#32 = some (.gfmul 2 0x80) := by decide
theorem test_decode_GFEXP : decode 0b001010_0000000000_0000000000001000#32 = some (.gfexp 8) := by decide
theorem test_decode_GFLOG : decode 0b001011_0000000000_0000000000011101#32 = some (.gflog 0x1D) := by decide
theorem test_decode_RSGEN : decode 0b010000_0000000000_0000000000000010#32 = some (.rsgen 2) := by decide
theorem test_decode_RSCLR : decode 0b010001_0000000000_0000000000000000#32 = some .rsclr := by decide
theorem test_decode_RSSTEP : decode 0b010010_0000000000_0000000000010010#32 = some (.rsstep 0x12) := by decide
theorem test_decode_RSRD : decode 0b010011_0000000001_0000000000000000#32 = some (.rsrd 1) := by decide
theorem test_decode_GENRD : decode 0b010100_0000000111_0000000000000000#32 = some (.genrd 7) := by decide
theorem test_decode_RSENC : decode 0b010101_0000000000_0000000000000000#32 = some .rsenc := by decide
theorem test_decode_PAYWR : decode 0b011000_0000000010_0000000001000011#32 = some (.paywr 2 0x43) := by decide
theorem test_decode_SETLEN : decode 0b011001_0000000000_0000000000000011#32 = some (.setlen 3) := by decide
theorem test_decode_VSEL : decode 0b011010_0000000000_0000000000000000#32 = some .vsel := by decide
theorem test_decode_SETVER : decode 0b011011_0000000000_0000000000000010#32 = some (.setver 2) := by decide
theorem test_decode_PACK : decode 0b011100_0000000000_0000000000000000#32 = some .pack := by decide
theorem test_decode_CWRD : decode 0b011101_0000000001_0000000000000000#32 = some (.cwrd 1) := by decide
theorem test_decode_CWWR : decode 0b011110_0000000000_0000000001000000#32 = some (.cwwr 0 0x40) := by decide
theorem test_decode_PAYRD : decode 0b011111_1000000000_0000000000000000#32 = some (.payrd 512) := by decide
theorem test_decode_MBUILD : decode 0b100000_0000000000_0000000000000000#32 = some .mbuild := by decide
theorem test_decode_MRD : decode 0b100001_0000001101_0000000000001000#32 = some (.mrd 13 8) := by decide
theorem test_decode_WINIT : decode 0b101000_0000000000_0000000000000000#32 = some .winit := by decide
theorem test_decode_WNEXT : decode 0b101001_0000000000_0000000000000000#32 = some .wnext := by decide
theorem test_decode_PLACE : decode 0b101010_0000000000_0000000000000000#32 = some .place := by decide
theorem test_decode_MASK : decode 0b101011_0000000000_0000000000000000#32 = some .mask := by decide
theorem test_decode_FMT : decode 0b110000_0000000000_0000000000000000#32 = some .fmt := by decide

/-- The illegal words of vector V56. -/
theorem test_decode_refuses_illegal_words :
    decode 0xFC000000#32 = none ∧ decode 0x10000000#32 = none ∧ decode 0x00000001#32 = none ∧
    decode 0x04000001#32 = none ∧ decode 0x0C000001#32 = none ∧ decode 0x280101FF#32 = none := by decide

/-- A word of the opcode table as the host numbers it; bits above `nbits` do not count. -/
theorem test_decodeTableWord :
    decodeTableWord 32 0x840D0008 = some (.mrd 13 8) ∧ decodeTableWord 32 0x1FC000000 = none ∧
    decodeTableWord 16 0xFFFF0000 = some .nop := by decide

/-! ## One step -/

/-- A word placed for the next step is executed by it: `SETVER 2` (rule R111, word 0x6C000002). -/
theorem test_step_runs_the_placed_word :
    onNext (fun t => (t.ver, t.verv, t.pending)) (step (State.reset.withFetchWord 32 0x6C000002)) =
      some (2#4, true, []) := by decide

/-- `GFEXP 511` with a nonzero a field is illegal, not out of range (rule R181). -/
theorem test_step_illegal_word :
    onNext (fun t => (t.status, t.err)) (step (State.reset.withFetchWord 32 0x280101FF)) =
      some (0x8000#16, 0x01#8) := by decide

/-- While FAULT = 1 a word is ignored, RESET is not (vector V59). -/
theorem test_step_while_faulted :
    onNext id (step (faulted.withFetchWord 32 0x20000000)) = some faulted ∧
    onNext id (step (faulted.withFetchWord 32 0x04000000)) = some State.reset ∧
    onNext id (step { faulted with pending := [.resetInput] }) = some State.reset := by decide

/-- The ports show the last result and the first fault, also while FAULT = 1 (rules R163, R179). -/
theorem test_ports_while_faulted :
    State.ports { faulted with res := 0x1D } = { res := 0x1D, status := 0x8000, err := 0x03 } := by decide

/-! ## System commands -/

theorem test_NOP : onNext id (exec .nop (withVersion 2)) = some (withVersion 2) := by decide

/-- Rule R161: RESET clears the payload and the version too. -/
theorem test_RESET :
    onNext id (exec .reset { withVersion 2 with len := 3, pay := [(0, 0x41)] }) = some State.reset := by decide

/-- Rule R162, the example: after `SETVER 2`, registers 6, 3 and 0. -/
theorem test_RDREG :
    resAfter (.rdreg 6) (withVersion 2) = some 25 ∧ resAfter (.rdreg 3) (withVersion 2) = some 2 ∧
    resAfter (.rdreg 0) (withVersion 2) = some 4 ∧ resAfter (.rdreg 6) State.reset = some 0 := by decide

/-- Vector V57: `RDREG 7`. -/
theorem test_RDREG_range : portsAfter (.rdreg 7) State.reset = some (0x8000#16, 0x03#8) := by decide

/-! ## The field engine -/

/-- Vector V10, the heads of the tables. -/
theorem test_GFINIT :
    onNext (fun t => (Memory.read t.exp 0, Memory.read t.exp 1, Memory.read t.exp 8, t.tblv)) (exec .gfinit State.reset) =
      some (0x01, 0x02, 0x1D, true) := by decide +kernel

/-- Rule R83, the example: `GFMUL 2, 0x80` gives 0x1D, from the three cells it reads (rule R86). -/
theorem test_GFMUL :
    resAfter (.gfmul 2 0x80) (withTables [(8, 0x1D)] [(2, 1), (0x80, 7)]) = some 0x1D ∧
    resAfter (.gfmul 0 5) (withTables [(8, 0x1D)] [(2, 1), (0x80, 7)]) = some 0 := by decide

/-- Vector V16: GFMUL before GFINIT. -/
theorem test_GFMUL_sequence : portsAfter (.gfmul 2 3) State.reset = some (0x8000#16, 0x02#8) := by decide

/-- Vector V13, from the cells of rule R86; index 510 is legal, 511 is not. -/
theorem test_GFEXP :
    resAfter (.gfexp 8) (withTables [(8, 0x1D), (510, 1)] []) = some 0x1D ∧
    resAfter (.gfexp 510) (withTables [(8, 0x1D), (510, 1)] []) = some 1 := by decide

theorem test_GFEXP_range : portsAfter (.gfexp 511) (withTables [] []) = some (0x8001#16, 0x03#8) := by decide

/-- Vector V14, from the cells of rule R86. -/
theorem test_GFLOG :
    resAfter (.gflog 0x1D) (withTables [] [(0x1D, 8), (255, 0xAF)]) = some 8 ∧
    resAfter (.gflog 255) (withTables [] [(0x1D, 8), (255, 0xAF)]) = some 0xAF := by decide

/-- Vector V14: the order of GFLOG's tests. -/
theorem test_GFLOG_faults :
    portsAfter (.gflog 0) (withTables [] []) = some (0x8001#16, 0x04#8) ∧
    portsAfter (.gflog 256) (withTables [] []) = some (0x8001#16, 0x03#8) ∧
    portsAfter (.gflog 0) State.reset = some (0x8000#16, 0x02#8) := by decide

/-! ## The Reed-Solomon encoder -/

/-- Rule R91, the example: `RSGEN 2` gives 01 03 02. -/
theorem test_RSGEN :
    onNext (fun t => (Memory.read t.gen 0, Memory.read t.gen 1, Memory.read t.gen 2, t.genn, t.genv))
      (exec (.rsgen 2) (withTables [(0, 1), (1, 2)] [(2, 1)])) = some (1, 3, 2, 2, true) := by decide

theorem test_RSGEN_range :
    portsAfter (.rsgen 0) (withTables [] []) = some (0x8001#16, 0x03#8) ∧
    portsAfter (.rsgen 256) (withTables [] []) = some (0x8001#16, 0x03#8) := by decide

/-- Rule R92: cells at and above GENN are not touched. -/
theorem test_RSCLR :
    onNext State.reg (exec .rsclr { withGenerator 2 [] State.reset with reg := [(0, 9), (1, 8), (2, 7)] }) =
      some [(2, 7)] := by decide

/-- Rule R93, the example: after `RSGEN 2; RSCLR`, `RSSTEP 0x12` gives 36 24; the cells of EXP and LOG are those of rule
R86 that it reads. -/
theorem test_RSSTEP :
    onNext State.reg (exec (.rsstep 0x12) (withGenerator 2 [(0, 1), (1, 3), (2, 2)]
      (withTables [(225, 0x24), (249, 0x36)] [(2, 0x01), (3, 0x19), (0x12, 0xE0)]))) =
      some [(0, 0x36), (1, 0x24)] := by decide

theorem test_RSSTEP_range :
    portsAfter (.rsstep 256) (withGenerator 2 [] (withTables [] [])) = some (0x8003#16, 0x03#8) := by decide

/-- Vector V57: RSRD and GENRD at the degree. -/
theorem test_RSRD :
    resAfter (.rsrd 1) { withGenerator 2 [] State.reset with reg := [(0, 0x22), (1, 0x04)] } = some 0x04 ∧
    portsAfter (.rsrd 2) (withGenerator 2 [] State.reset) = some (0x8002#16, 0x03#8) := by decide

theorem test_GENRD :
    resAfter (.genrd 2) (withGenerator 2 [(0, 1), (1, 3), (2, 2)] State.reset) = some 2 ∧
    portsAfter (.genrd 3) (withGenerator 2 [] State.reset) = some (0x8002#16, 0x03#8) := by decide

/-- Rule R96: GENN takes ECC[VER], here ECC[1] = 7. -/
theorem test_RSENC :
    onNext (fun t => (t.genn, t.status)) (exec .rsenc { withTables [] [] with ver := 1, verv := true }) =
      some (7, 0x0007#16) := by decide

theorem test_RSENC_sequence : portsAfter .rsenc (withVersion 1) = some (0x8004#16, 0x02#8) := by decide

/-! ## The packer -/

/-- Vector V58 and rule R106. -/
theorem test_PAYWR :
    onNext State.pay (exec (.paywr 511 0xFFFF) State.reset) = some [(511, 0xFFFF)] ∧
    portsAfter (.paywr 512 1) State.reset = some (0x8000#16, 0x03#8) := by decide

theorem test_PAYRD :
    resAfter (.payrd 0) { State.reset with pay := [(0, 0x0141)] } = some 0x141 ∧
    resAfter (.payrd 511) State.reset = some 0 := by decide

theorem test_SETLEN :
    onNext id (exec (.setlen 0xFFFF) State.reset) = some { State.reset with len := 0xFFFF } := by decide

/-- Rule R109: the length 18 selects version 2. -/
theorem test_VSEL :
    onNext (fun t => (t.ver, t.ovf, t.res)) (exec .vsel { State.reset with len := 18 }) = some (2, false, 2) := by decide

/-- Vector V39: nothing fits 272 characters. -/
theorem test_VSEL_overflow :
    onNext (fun t => (t.ver, t.ovf, t.res, t.fault)) (exec .vsel { State.reset with len := 272 }) =
      some (10, true, 10, false) := by decide

/-- Rule R111: the matrix is no longer valid. -/
theorem test_SETVER :
    onNext (fun t => (t.ver, t.status)) (exec (.setver 10) (withMatrix [])) = some (10, 0x0004#16) ∧
    portsAfter (.setver 11) State.reset = some (0x8000#16, 0x03#8) := by decide

/-- Vector V30: the head of the codewords of "ABC". -/
theorem test_PACK :
    onNext (fun t => (List.range 7).map (Memory.read t.cw))
      (exec .pack { withVersion 1 with len := 3, pay := [(0, 0x41), (1, 0x42), (2, 0x43)] }) =
      some [0x40, 0x34, 0x14, 0x24, 0x30, 0xEC, 0x11] := by decide +kernel

/-- Vectors V33 and V35. -/
theorem test_PACK_truncation_and_capacity :
    onNext State.chtrunc (exec .pack { withVersion 1 with len := 2, pay := [(0, 0x0141), (1, 0x00FF)] }) = some true ∧
    portsAfter .pack { withVersion 1 with len := 18 } = some (0x8004#16, 0x05#8) := by decide

theorem test_CWRD :
    resAfter (.cwrd 1) { State.reset with cw := [(1, 0x34)] } = some 0x34 ∧
    portsAfter (.cwrd 512) State.reset = some (0x8000#16, 0x03#8) := by decide

theorem test_CWWR :
    onNext State.cw (exec (.cwwr 0 0x40) State.reset) = some [(0, 0x40)] ∧
    portsAfter (.cwwr 0 256) State.reset = some (0x8000#16, 0x03#8) := by decide

/-! ## The matrix -/

/-- Rule R134, the example: the dark module of version 1. -/
theorem test_MBUILD :
    onNext (fun t => (cellAt t.mat 13 8, t.matv)) (exec .mbuild (withVersion 1)) = some (⟨.S, true⟩, true) := by
  decide +kernel

theorem test_MRD :
    resAfter (.mrd 13 8) (withMatrix [(cellIndex 13 8, ⟨.S, true⟩)]) = some 3 ∧
    resAfter (.mrd 8 0) (withMatrix [(cellIndex 8 0, ⟨.R, false⟩)]) = some 4 := by decide

/-- Vector V43: the edges of the square. -/
theorem test_MRD_range :
    portsAfter (.mrd 21 0) (withMatrix []) = some (0x800C#16, 0x03#8) ∧
    portsAfter (.mrd 0 21) (withMatrix []) = some (0x800C#16, 0x03#8) ∧
    resAfter (.mrd 20 20) (withMatrix []) = some 0 := by decide

/-- Vector V48. -/
theorem test_WINIT : onNext State.walk (exec .winit (withVersion 1)) = some 0x2500#14 := by decide

/-- Vectors V46, V48: the 1st and the 42nd cell of version 1. -/
theorem test_WNEXT :
    onNext (fun t => (t.res, t.walk)) (exec .wnext (withWalker 20 0 false true (withVersion 1))) =
      some (0x1414, 0x3500#14) ∧
    onNext (fun t => (t.res, t.walk)) (exec .wnext (withWalker 20 20 true true (withVersion 1))) =
      some (0x0013, 0x0480#14) := by decide

/-- Vector V46: after the 294th cell the pair (5, 4) follows; after the 420th the traversal is over. -/
theorem test_WNEXT_turns :
    onNext (fun t => (t.res, t.wright)) (exec .wnext (withWalker 8 20 true true (withVersion 1))) = some (0x0007, 5) ∧
    onNext (fun t => (t.res, t.walk, t.status)) (exec .wnext (withWalker 1 20 true false (withVersion 1))) =
      some (0x1400, 0x2040#14, 0x0104#16) := by decide

/-- Rule R144: WALK as a traversal leaves it, and what becomes of the flags. -/
theorem test_PLACE : onNext (fun t => (t.walk, t.status)) (exec .place (withMatrix [])) =
    some (0x2040#14, 0x010C#16) := by decide

/-- Rule R146: (20, 20) flips, (20, 19) does not, a structural cell does not. -/
theorem test_MASK :
    onNext (fun t => (cellAt t.mat 20 20, cellAt t.mat 20 19, cellAt t.mat 0 0, t.masked))
      (exec .mask (withMatrix
        [(cellIndex 0 0, ⟨.S, true⟩), (cellIndex 20 19, ⟨.D, true⟩), (cellIndex 20 20, ⟨.D, true⟩)])) =
      some (⟨.D, false⟩, ⟨.D, true⟩, ⟨.S, true⟩, true) := by decide +kernel

/-- Rule R156, the example: both copies of bit 2; a data cell on the strip is left alone. -/
theorem test_FMT :
    onNext (fun t => (cellAt t.mat 2 8, cellAt t.mat 8 18, cellAt t.mat 8 20))
      (exec .fmt (withMatrix
        [(cellIndex 2 8, ⟨.R, false⟩), (cellIndex 8 18, ⟨.R, false⟩), (cellIndex 8 20, ⟨.D, true⟩)])) =
      some (⟨.F, true⟩, ⟨.F, true⟩, ⟨.D, true⟩) := by decide +kernel

/-! ## The whole pipeline -/

/-- Rule R165, the example, and vector V60: the registers and flags after ENCODE of three characters. -/
theorem test_ENCODE :
    onNext (fun t => (t.ver, t.res, t.genn, t.status, t.walk))
      (exec .encode { State.reset with len := 3, pay := [(0, 0x41), (1, 0x42), (2, 0x43)] }) =
      some (1, 1, 7, 0x011F#16, 0x2040#14) := by decide +kernel

theorem test_ENCODE_capacity : portsAfter .encode { State.reset with len := 272 } = some (0x8000#16, 0x05#8) := by decide

/-! ## The host's notation and the renderer -/

/-- Rules R68, R106: the quoted character, the comment. -/
theorem test_assemble_line :
    assembleLine "PAYWR 0, 'A' ; first".toList = some [.paywr 0 0x41] ∧
    assembleLine "GFMUL 2, 0x80".toList = some [.gfmul 2 0x80] ∧ assembleLine "GFEXP".toList = none := by decide

/-- Rule R69: LOADSTR. -/
theorem test_assemble_LOADSTR :
    assembleLine "LOADSTR \"ABC\"".toList =
      some [.paywr 0 0x41, .paywr 1 0x42, .paywr 2 0x43, .setlen 3] := by decide

/-- Rule R171: at module size 3 a 21 × 21 symbol is 75 units wide; the module at (0, 0) is the rectangle at (6, 6). -/
theorem test_render :
    (render 21 (fun r c => r == 0 && c == 0) 3).map (fun d => (d.width, d.height, d.shapes.drop 1)) =
      some (75, 75, [{ x := 6, y := 6, w := 3, h := 3, colour := .black }]) := by decide +kernel

theorem test_render_refuses_size_zero : render 21 (fun _ _ => true) 0 = none := by decide

/-- Rule R170: the default module size is 4, so a 21 × 21 symbol is 100 units wide. -/
theorem test_render_default_size : (render 21 (fun _ _ => false)).map Drawing.width = some 100 := by decide +kernel

/-! ## Witnesses: for every statement with hypotheses, a state and operands that meet them, with the boundary values of
its clauses. A statement without a witness has no hypothesis, or only that of a state which a theorem here names. -/

/-- The core has faulted, or is ready. -/
theorem witness_ready_and_faulted : Ready State.reset ∧ faulted.fault = true := by decide

theorem witness_EncodeOfDecodeIsTheWord : decode 0x63FF0043#32 = some (.paywr 1023 0x43) := by decide

theorem witness_StepRunsTheDecodedCommand :
    (State.reset.withFetchWord 32 0x6C000002).pending = [.command 0x6C000002#32] ∧
    decode 0x6C000002#32 = some (.setver 2) := by decide

theorem witness_IllegalWordRaisesErrIllegal :
    (State.reset.withFetchWord 32 0x04000001).pending = [.command 0x04000001#32] ∧ decode 0x04000001#32 = none ∧
    (State.reset.withFetchWord 32 0x04000001).fault = false ∧
    (faulted.withFetchWord 32 0x04000001).pending = [.command 0x04000001#32] ∧
    (faulted.withFetchWord 32 0x04000001).fault = true := by decide

theorem witness_FaultedCoreIgnoresEveryOtherWord :
    (faulted.withFetchWord 32 0x04000001).fault = true ∧
    (faulted.withFetchWord 32 0x04000001).pending = [.command 0x04000001#32] ∧
    0x04000001#32 ≠ 0x04000000#32 := by decide

theorem witness_EveryStepHasANextState : State.reset.pending = [] := by decide

theorem witness_ResetCommandAndInputRestoreEverything :
    (faulted.withFetchWord 32 0x04000000).pending = [.command 0x04000000#32] ∧
    { withVersion 2 with pending := [.resetInput] }.pending = [HostEvent.resetInput] := by decide

/-- Every test of the table at both sides of its boundary: system commands and the field engine. -/
theorem witness_FaultsAreTheTestsOfTheTable_system_and_field :
    faultOf (.rdreg 6) State.reset = none ∧ faultOf (.rdreg 7) State.reset = some .range ∧
    faultOf .encode { State.reset with len := 271 } = none ∧
    faultOf .encode { State.reset with len := 272 } = some .capacity ∧
    faultOf (.gfmul 0 0) (withTables [] []) = none ∧ faultOf (.gfmul 0 0) State.reset = some .seq ∧
    faultOf (.gfexp 510) (withTables [] []) = none ∧ faultOf (.gfexp 511) (withTables [] []) = some .range ∧
    faultOf (.gfexp 511) State.reset = some .seq ∧
    faultOf (.gflog 1) (withTables [] []) = none ∧ faultOf (.gflog 255) (withTables [] []) = none ∧
    faultOf (.gflog 0) (withTables [] []) = some .log0 ∧ faultOf (.gflog 256) (withTables [] []) = some .range ∧
    faultOf (.gflog 0) State.reset = some .seq := by decide

/-- The Reed-Solomon encoder. -/
theorem witness_FaultsAreTheTestsOfTheTable_reed_solomon :
    faultOf (.rsgen 1) (withTables [] []) = none ∧ faultOf (.rsgen 255) (withTables [] []) = none ∧
    faultOf (.rsgen 0) (withTables [] []) = some .range ∧ faultOf (.rsgen 256) (withTables [] []) = some .range ∧
    faultOf (.rsgen 0) State.reset = some .seq ∧ faultOf .rsclr State.reset = some .seq ∧
    faultOf .rsclr (withGenerator 7 [] State.reset) = none ∧
    faultOf (.rsstep 255) (withGenerator 7 [] (withTables [] [])) = none ∧
    faultOf (.rsstep 256) (withGenerator 7 [] (withTables [] [])) = some .range ∧
    faultOf (.rsstep 256) (withTables [] []) = some .seq ∧
    faultOf (.rsstep 256) (withGenerator 7 [] State.reset) = some .seq ∧
    faultOf (.rsrd 6) (withGenerator 7 [] State.reset) = none ∧
    faultOf (.rsrd 7) (withGenerator 7 [] State.reset) = some .range ∧
    faultOf (.genrd 7) (withGenerator 7 [] State.reset) = none ∧
    faultOf (.genrd 8) (withGenerator 7 [] State.reset) = some .range ∧
    faultOf .rsenc (withVersion 1) = some .seq ∧ faultOf .rsenc (withTables [] []) = some .seq ∧
    faultOf .rsenc { withTables [] [] with ver := 1, verv := true } = none := by decide

/-- The packer and the matrix units. -/
theorem witness_FaultsAreTheTestsOfTheTable_packer_and_matrix :
    faultOf (.paywr 511 0) State.reset = none ∧ faultOf (.paywr 512 0) State.reset = some .range ∧
    faultOf (.payrd 511) State.reset = none ∧ faultOf (.payrd 512) State.reset = some .range ∧
    faultOf (.cwrd 511) State.reset = none ∧ faultOf (.cwrd 512) State.reset = some .range ∧
    faultOf (.cwwr 511 255) State.reset = none ∧ faultOf (.cwwr 512 255) State.reset = some .range ∧
    faultOf (.cwwr 511 256) State.reset = some .range ∧
    faultOf (.setver 1) State.reset = none ∧ faultOf (.setver 10) State.reset = none ∧
    faultOf (.setver 0) State.reset = some .range ∧ faultOf (.setver 11) State.reset = some .range ∧
    faultOf .pack { withVersion 1 with len := 17 } = none ∧
    faultOf .pack { withVersion 1 with len := 18 } = some .capacity ∧
    faultOf .pack { State.reset with len := 18 } = some .seq ∧
    faultOf (.mrd 20 20) (withMatrix []) = none ∧ faultOf (.mrd 21 20) (withMatrix []) = some .range ∧
    faultOf (.mrd 20 21) (withMatrix []) = some .range ∧ faultOf (.mrd 21 21) (withVersion 1) = some .seq ∧
    faultOf .wnext (withVersion 1) = some .seq ∧
    faultOf .wnext (withWalker 20 0 false true (withVersion 1)) = none := by decide

/-- The three ways ERR can be after a step. -/
theorem witness_ErrChangesOnlyAtTheFirstFaultAndAtReset :
    step (State.reset.withFetchWord 32 0) = .next State.reset ∧
    step (State.reset.withFetchWord 32 0xFC000000) = .next { State.reset with fault := true, err := 0x01 } ∧
    step { faulted with pending := [.resetInput] } = .next State.reset := ⟨rfl, rfl, rfl⟩

theorem witness_FlagsChangeOnlyAsTheTableSays :
    Ready (withMatrix []) ∧ ∃ t, exec (.setver 10) (withMatrix []) = .next t ∧ t.fault = false ∧
      (withMatrix []).matv = true ∧ t.matv = false := ⟨rfl, _, rfl, rfl, rfl, rfl⟩

theorem witness_StoresAreWrittenOnlyByTheirOwners :
    ∃ t, exec (.cwwr 511 255) State.reset = .next t ∧ Instr.cwwr 511 255 ≠ .reset ∧ Instr.cwwr 511 255 ≠ .encode ∧
      t.cw ≠ State.reset.cw := ⟨_, rfl, by decide, by decide, by decide⟩

/-- The clause about RES: VSEL owns it. -/
theorem witness_StoresAreWrittenOnlyByTheirOwners_RES :
    ∃ t, exec .vsel State.reset = .next t ∧ Instr.vsel ≠ .reset ∧ Instr.vsel ≠ .encode ∧ t.res ≠ State.reset.res :=
  ⟨_, rfl, by decide, by decide, by decide⟩

/-- Register numbers 6 and 7; SIZE of the largest version fits its 6 bits. -/
theorem witness_RdregCopiesTheRegister :
    Ready (withVersion 10) ∧ (withVersion 10).registersOk = true ∧ (6#10).toNat ≤ 6 ∧ 6 < (7#10).toNat ∧
    registerValue (withVersion 10) 6 = 57 := by decide

/-- For the statements about GFINIT and about GFMUL after it: the one hypothesis is `Ready`. The indices at the edges of
the ranges of the clauses. -/
theorem witness_GfinitBuildsTheTables :
    Ready State.reset ∧ (254 ≤ 254 ∧ 255 ≤ 255 ∧ 510 ≤ 510 ∧ 511 ≤ 511) ∧ power 8 = 0x1D ∧ power 254 = 0x8E := by
  decide +kernel

/-- LOG of the powers 2^0 and 2^254; an element with an inverse. -/
theorem witness_LogarithmInvertsExponent_and_field_laws :
    Ready State.reset ∧ (1 ≤ 1 ∧ 255 ≤ 255) ∧ (0 ≤ 254 ∧ 254 ≤ 254) ∧ (1#8 ≠ 0) := by decide

theorem witness_GfmulLooksUpTheTables : Ready (withTables [] []) ∧ (withTables [] []).tblv = true := by decide

theorem witness_GfmulIsPolynomialMultiplication :
    Ready State.reset ∧ fieldProduct 2 0x80 = 0x1D ∧ fieldProduct 0x8E 0x8E = 0x47 := by decide

/-- Operands at each clause: 510 and 511, 1 and 255, 256, 0. -/
theorem witness_TableReadsReturnTheCell :
    Ready (withTables [] []) ∧ (withTables [] []).tblv = true ∧
    (510#16).toNat ≤ 510 ∧ 510 < (511#16).toNat ∧ 1 ≤ (1#16).toNat ∧ (255#16).toNat ≤ 255 ∧ 255 < (256#16).toNat ∧
    (0#16).toNat = 0 := by decide

theorem witness_RsgenBuildsTheGeneratorPolynomial :
    Ready (withTables [] []) ∧ (withTables [] []).tblv = true ∧ 1 ≤ (1#16).toNat ∧ (255#16).toNat ≤ 255 := by decide

theorem witness_RsclrClearsTheRegister :
    Ready (withGenerator 7 [] State.reset) ∧ (withGenerator 7 [] State.reset).genv = true ∧
    6 < (withGenerator 7 [] State.reset).genn.toNat ∧ (withGenerator 7 [] State.reset).genn.toNat ≤ 7 := by decide

/-- Degree 1, where the shift loop is empty, and degree 2; the data byte 255. -/
theorem witness_RsstepIsOneDivisionStep :
    Ready (withGenerator 1 [] (withTables [] [])) ∧ (withGenerator 1 [] (withTables [] [])).registersOk = true ∧
    (withGenerator 1 [] (withTables [] [])).tblv = true ∧ (withGenerator 1 [] (withTables [] [])).genv = true ∧
    (255#16).toNat ≤ 255 ∧ (withGenerator 2 [] (withTables [] [])).registersOk = true := by decide

/-- Indices 6, 7 and 8 for a degree of 7; 511 and 512 for PAY and CW. -/
theorem witness_GeneratorAndRegisterReadsReturnTheElement :
    Ready (withGenerator 7 [] State.reset) ∧ (withGenerator 7 [] State.reset).genv = true ∧
    (6#10).toNat < (withGenerator 7 [] State.reset).genn.toNat ∧
    (7#10).toNat ≤ (withGenerator 7 [] State.reset).genn.toNat ∧
    (withGenerator 7 [] State.reset).genn.toNat < (8#10).toNat ∧
    (511#10).toNat ≤ 511 ∧ 511 < (512#10).toNat := by decide

theorem witness_RsencStoresTheRemainder :
    Ready { withTables [] [] with ver := 10, verv := true } ∧
    State.registersOk { withTables [] [] with ver := 10, verv := true } = true := by decide

/-- The tables GFINIT builds meet `TablesOk`. -/
theorem builtTables_ok (v : BitVec 4) (hv : Bool) (p : List HostEvent) :
    State.TablesOk { builtTables with ver := v, verv := hv, pending := p } where
  exp _ _ _ := by simp only [builtTables, withTables]
  log _ _ _ _ := by simp only [builtTables, withTables]
  built _ := by simp only [builtTables, withTables]

theorem witness_RsencCodewordVanishesAtTheRoots :
    Ready { builtTables with ver := 1, verv := true } ∧
    State.registersOk { builtTables with ver := 1, verv := true } = true ∧
    State.TablesOk { builtTables with ver := 1, verv := true } ∧
    State.tblv { builtTables with ver := 1, verv := true } = true ∧ 6 < params.ecc 1 :=
  ⟨rfl, by decide, builtTables_ok 1 true [], rfl, by decide⟩

theorem witness_CheckBytesAreLinear :
    State.TablesOk { builtTables with ver := 1, verv := true } ∧
    State.tblv { builtTables with ver := 1, verv := true } = true ∧ ([1, 2] : List Byte).length = ([3, 4] : List Byte).length :=
  ⟨builtTables_ok 1 true [], rfl, rfl⟩

/-- Index 511 and 512, byte 255 and 256. -/
theorem witness_PayloadAccess_and_CodewordAccess :
    Ready State.reset ∧ (511#10).toNat ≤ 511 ∧ 511 < (512#10).toNat ∧ (255#16).toNat ≤ 255 ∧ 255 < (256#16).toNat := by
  decide

/-- Versions 1, 10, 0 and 11. -/
theorem witness_SetlenAndSetverWriteTheirRegister :
    Ready State.reset ∧ 1 ≤ (1#16).toNat ∧ (10#16).toNat ≤ 10 ∧ (0#16).toNat = 0 ∧ 10 < (11#16).toNat := by decide

/-- The lengths at which the selection changes (rule R109): the selected version is the one `IsSelected` names. -/
theorem witness_VselSelectsTheSmallestVersionThatFits :
    Ready { State.reset with len := 17 } ∧ IsSelected params 17 1 ∧ IsSelected params 18 2 ∧
    IsSelected params 271 10 ∧ IsSelected params 272 10 ∧ ¬ IsSelected params 17 2 := by
  refine ⟨rfl, ⟨by omega, by omega, ?_⟩, ⟨by omega, by omega, ?_⟩, ⟨by omega, by omega, ?_⟩,
    ⟨by omega, by omega, ?_⟩, fun h => absurd (h.2.2 : 17 ≤ 32 ∧ ∀ u, 1 ≤ u → u < 2 → params.cap u < 17) (by decide)⟩
  · exact ⟨by decide, fun u hu hu' => by omega⟩
  · exact ⟨by decide, fun u hu hu' => by interval_cases u; decide⟩
  · exact ⟨by decide, fun u hu hu' => by interval_cases u <;> decide⟩
  · simp [params, defaultCap]

theorem witness_SelectionIsMonotoneForEveryInstance :
    smallerSecondVersion.ok = true ∧ 20 ≤ 21 ∧ Ready { State.reset with len := 21 } := by decide

/-- A full payload of version 1 and of version 10. -/
theorem witness_PackWritesTheBitStream :
    Ready { withVersion 1 with len := 17 } ∧ State.registersOk { withVersion 1 with len := 17 } = true ∧
    (17#16).toNat ≤ params.cap 1 ∧ State.registersOk { withVersion 10 with len := 271 } = true ∧
    (271#16).toNat ≤ params.cap 10 := by decide

/-- The payload that just fits version 2 of another table, and one character more. -/
theorem witness_StreamFillsTheBudgetForEveryInstance :
    smallerSecondVersion.ok = true ∧ 271 ≤ smallerSecondVersion.cap 10 ∧ (20#16).toNat ≤ smallerSecondVersion.cap 2 ∧
    smallerSecondVersion.cap 2 < (21#16).toNat ∧ Ready { withVersion 2 with len := 20 } ∧
    State.registersOk { withVersion 2 with len := 20 } = true ∧ (withVersion 2).verv = true := by decide

theorem witness_EncodeIsTheUnitSequence :
    smallerSecondVersion.ok = true ∧ Ready { State.reset with len := 271 } ∧
    (271#16).toNat ≤ smallerSecondVersion.cap 10 ∧ (271#16).toNat ≤ params.cap 10 := by decide

/-- The two widths of the length field: versions 9 and 10. -/
theorem witness_PackedHeadHoldsModeAndLength :
    Ready { withTables [] [] with ver := 9, verv := true, len := 230 } ∧
    State.registersOk { withTables [] [] with ver := 9, verv := true, len := 230 } = true ∧
    (230#16).toNat ≤ params.cap 9 ∧
    State.registersOk { withTables [] [] with ver := 10, verv := true, len := 271 } = true ∧
    (271#16).toNat ≤ params.cap 10 := by decide

theorem witness_MbuildStampsTheSkeleton :
    Ready (withVersion 10) ∧ (withVersion 10).registersOk = true ∧ (withVersion 10).verv = true := by decide

/-- Rows and columns 20 and 21 of version 1. -/
theorem witness_MrdReturnsClassAndValue :
    Ready (withMatrix []) ∧ (withMatrix []).matv = true ∧ (20#10).toNat < 17 + 4 * (withMatrix []).ver.toNat ∧
    (20#16).toNat < 17 + 4 * (withMatrix []).ver.toNat ∧ 17 + 4 * (withMatrix []).ver.toNat ≤ (21#10).toNat := by decide

theorem witness_WinitStartsTheWalker : Ready (withVersion 10) ∧ (withVersion 10).verv = true := by decide

/-- The four cases: the right cell of a row, the left cell below the last row, the end of a pair (8, 7), the end of the
traversal. -/
theorem witness_WnextYieldsTheCellAndMovesOn :
    Ready (withWalker 20 0 false true (withVersion 1)) ∧
    (withWalker 20 0 false true (withVersion 1)).registersOk = true ∧
    (withWalker 20 19 true true (withVersion 1)).registersOk = true ∧
    (withWalker 8 20 true true (withVersion 1)).registersOk = true ∧
    (withWalker 1 20 true false (withVersion 1)).registersOk = true := by decide

theorem witness_WalkVisitsEveryCellOutsideColumnSixOnce : 9 ≤ 21 ∧ 21 % 2 = 1 ∧ visited 21 419 = (20, 0) := by decide

/-- The first and the last cell of version 1. -/
theorem witness_WalkerYieldsTheVisitingOrder :
    Ready (withVersion 1) ∧ (withVersion 1).registersOk = true ∧ (withVersion 1).verv = true ∧
    419 < (withVersion 1).size * ((withVersion 1).size - 1) ∧ visited (withVersion 1).size 0 = (20, 20) ∧
    visited (withVersion 1).size 419 = (20, 0) := by decide

/-- The same state serves PLACE, MASK, FMT and the two statements about their order. -/
theorem witness_PlaceFillsTheUnsetCellsInOrder :
    Ready (withMatrix [(cellIndex 20 19, ⟨.D, true⟩)]) ∧
    (withMatrix [(cellIndex 20 19, ⟨.D, true⟩)]).registersOk = true ∧
    (withMatrix [(cellIndex 20 19, ⟨.D, true⟩)]).storesOk = true ∧
    (withMatrix [(cellIndex 20 19, ⟨.D, true⟩)]).matv = true ∧
    bitNumber (withMatrix [(cellIndex 20 19, ⟨.D, true⟩)]).mat 21 2 = 1 := by decide

theorem witness_MaskFlipsTheCheckerboard_and_MaskTwiceRestoresTheState :
    Ready (withMatrix [(cellIndex 20 20, ⟨.D, true⟩)]) ∧
    (withMatrix [(cellIndex 20 20, ⟨.D, true⟩)]).registersOk = true ∧
    (withMatrix [(cellIndex 20 20, ⟨.D, true⟩)]).storesOk = true := by decide

/-- All four corners of the strips are format cells, their neighbours on the timing lines are not. -/
theorem witness_FmtFillsTheReservedCells_and_FmtCommutesWithPlaceAndMask :
    Ready (withMatrix [(cellIndex 8 0, ⟨.R, false⟩)]) ∧
    (withMatrix [(cellIndex 8 0, ⟨.R, true⟩)]).registersOk = true ∧
    (withMatrix [(cellIndex 8 0, ⟨.R, true⟩)]).storesOk = true ∧
    isFormatCell 21 8 0 = true ∧ isFormatCell 21 0 8 = true ∧ isFormatCell 21 8 13 = true ∧
    isFormatCell 21 14 8 = true ∧ isFormatCell 21 6 8 = false ∧ isFormatCell 21 8 6 = false ∧
    isFormatCell 21 13 8 = false := by decide

/-- For the statements about ENCODE: the longest payload that fits; `storesOk` for the one that needs it. -/
theorem witness_EncodeCompletesTheSymbol :
    Ready { State.reset with len := 271 } ∧ (271#16).toNat ≤ params.cap 10 ∧
    State.storesOk { State.reset with len := 271 } = true := by decide

/-- Two states that differ in everything ENCODE does not depend on. -/
theorem witness_EncodeDependsOnThePayloadOnly :
    Ready { State.reset with len := 1, pay := [(0, 0x41)] } ∧
    Ready { withMatrix [] with len := 1, pay := [(0, 0x41), (7, 0x42)] } ∧
    (∀ k, k < 1 → Memory.read (α := Char16) [(0, 0x41)] k = Memory.read [(0, 0x41), (7, 0x42)] k) := by decide

/-- The payloads "ABC" and "ABD" of vector V63. -/
theorem witness_EqualLengthsDifferOnlyInDataCells :
    Ready { State.reset with len := 3, pay := [(0, 0x41), (1, 0x42), (2, 0x43)] } ∧
    Ready { State.reset with len := 3, pay := [(0, 0x41), (1, 0x42), (2, 0x44)] } ∧ (3#16).toNat ≤ params.cap 10 := by
  decide

/-- A state in which a skeleton stands, about to execute `MASK`. -/
def skeletonState : State :=
  { withMatrix (buildSkeleton params 1 []) with pending := [.command 0xAC000000#32] }

theorem witness_StepKeepsTheRegisters_and_StepKeepsTheStores :
    (State.reset.withFetchWord 32 0x61FFFFFF).registersOk = true ∧
    (State.reset.withFetchWord 32 0x61FFFFFF).storesOk = true ∧
    ∃ t, step (State.reset.withFetchWord 32 0x61FFFFFF) = .next t ∧ t.pay = [(511, 0xFFFF)] :=
  ⟨by decide, by decide, _, rfl, by decide⟩

theorem witness_StepKeepsTablesAndGenerator :
    State.registersOk { builtTables with pending := [.command 0x40000002#32] } = true ∧
    State.TablesOk { builtTables with pending := [.command 0x40000002#32] } ∧
    State.GeneratorOk { builtTables with pending := [.command 0x40000002#32] } ∧
    ∃ t, step { builtTables with pending := [.command 0x40000002#32] } = .next t ∧ t.genv = true :=
  ⟨by decide, builtTables_ok 0 false _, fun h => absurd h (by decide), _, rfl, rfl⟩

/-- A fresh skeleton meets `MatrixOk`. -/
theorem skeletonState_ok : skeletonState.MatrixOk := fun _ r c _ _ => by
  simp only [skeletonState, withMatrix, withVersion]
  exact (buildSkeleton_cells params 1 (fun _ => .inl rfl) (cellIndex r c)).evolves

theorem witness_StepKeepsTheMatrix :
    skeletonState.registersOk = true ∧ skeletonState.MatrixOk ∧
    ∃ t, step skeletonState = .next t ∧ t.masked = true :=
  ⟨by decide, skeletonState_ok, _, rfl, rfl⟩

theorem witness_RenderDrawsOneRectanglePerDarkModule : 0 < 1 := by decide

end Sys2Proof.Tests
end

section
/-! Version selection (rule R109) for every parameter table that meets rule R7: what the loop leaves, and VSEL. -/

namespace Sys2Proof

/-! ### The capacities of an instance that meets rule R7 -/

/-- P2 of rule R7, one version to the next. -/
theorem Params.cap_le_cap_succ {P : Params} (hP : P.ok = true) {v : Nat} (h1 : 1 ≤ v) (h9 : v ≤ 9) :
    P.cap v ≤ P.cap (v + 1) := by
  simp only [Params.ok, Bool.and_eq_true] at hP
  obtain ⟨⟨⟨⟨-, hmono⟩, -⟩, -⟩, -⟩ := hP
  simp only [Params.capMonotone, List.all_eq_true, decide_eq_true_eq] at hmono
  exact hmono v (List.mem_range'_1.2 ⟨h1, by omega⟩)

/-- CAP never decreases over the versions 1..10 (rules R7, R109). -/
theorem Params.cap_mono {P : Params} (hP : P.ok = true) {u v : Nat} (h1 : 1 ≤ u) (huv : u ≤ v) (h10 : v ≤ 10) :
    P.cap u ≤ P.cap v := by
  induction v, huv using Nat.le_induction with
  | base => exact le_rfl
  | succ v huv ih => exact (ih (by omega)).trans (Params.cap_le_cap_succ hP (by omega) (by omega))

namespace Machine

open Sys2Proof.Claim

/-! ### The loop of rule R109 -/

/-- A loop that runs a list from its end and overwrites its result at every hit leaves the first hit. -/
theorem foldr_overwrite_eq_find? (p : Nat → Bool) (d : Nat × Bool) (l : List Nat) :
    l.foldr (fun t r => if p t then (t, false) else r) d = ((l.find? p).map (·, false)).getD d := by
  induction l with
  | nil => rfl
  | cons t l ih => cases ht : p t <;> simp [ht, ih]

/-- The loop counts down and keeps the last hit, so it finds the first version, counting up, whose capacity suffices. -/
theorem selectVersion_eq_find? (P : Params) (n : Nat) :
    selectVersion P n = (((upTo 1 10).find? (fun t => n ≤ P.cap t)).map (·, false)).getD (10, true) := by
  simp only [selectVersion, downTo, List.foldl_reverse, ← foldr_overwrite_eq_find?, decide_eq_true_eq]

/-- What the loop leaves, with any table: the smallest version that fits and no overflow, or 10 and overflow. -/
theorem selectVersion_cases (P : Params) (n : Nat) :
    (∃ v, 1 ≤ v ∧ v ≤ 10 ∧ n ≤ P.cap v ∧ (∀ u, 1 ≤ u → u < v → P.cap u < n) ∧ selectVersion P n = (v, false)) ∨
    ((∀ u, 1 ≤ u → u ≤ 10 → P.cap u < n) ∧ selectVersion P n = (10, true)) := by
  have hloop := selectVersion_eq_find? P n
  cases hfind : (upTo 1 10).find? (fun t => n ≤ P.cap t) with
  | some v =>
    rw [hfind] at hloop
    obtain ⟨hfit, hmem, hleast⟩ := List.find?_range'_eq_some.1 hfind
    obtain ⟨h1, h10⟩ := mem_upTo.1 hmem
    exact .inl ⟨v, h1, h10, by simpa using hfit, fun u hu huv => by simpa using hleast u hu huv, hloop⟩
  | none =>
    rw [hfind] at hloop
    have hnone := List.find?_eq_none.1 hfind
    exact .inr ⟨fun u hu hu' => by simpa using hnone u (mem_upTo.2 ⟨hu, hu'⟩), hloop⟩

/-- With a table that meets rule R7 the loop selects the version rule R109 names. -/
theorem isSelected_selectVersion {P : Params} (hP : P.ok = true) (n : Nat) :
    IsSelected P n (selectVersion P n).1 := by
  obtain ⟨v, h1, h10, hfit, hleast, heq⟩ | ⟨hnone, heq⟩ := selectVersion_cases P n
  · have hcap : n ≤ P.cap 10 := hfit.trans (Params.cap_mono hP h1 h10 le_rfl)
    simpa only [IsSelected, heq, if_pos hcap] using ⟨h1, h10, hfit, hleast⟩
  · have hcap : ¬ n ≤ P.cap 10 := (hnone 10 (by decide) le_rfl).not_ge
    simp only [IsSelected, heq, if_neg hcap]
    decide

/-- With a table that meets rule R7 the loop reports overflow exactly above CAP[10]. -/
theorem selectVersion_overflow {P : Params} (hP : P.ok = true) (n : Nat) :
    (selectVersion P n).2 = decide (P.cap 10 < n) := by
  obtain ⟨v, h1, h10, hfit, -, heq⟩ | ⟨hnone, heq⟩ := selectVersion_cases P n
  · rw [heq, decide_eq_false (hfit.trans (Params.cap_mono hP h1 h10 le_rfl)).not_gt]
  · rw [heq, decide_eq_true (hnone 10 (by decide) le_rfl)]

/-- "Monotonic sizing" (rules R109, R168): a smaller version would not hold the longer payload. -/
theorem isSelected_le_isSelected {P : Params} {m n v w : Nat} (hv : IsSelected P m v) (hw : IsSelected P n w)
    (hmn : m ≤ n) : v ≤ w := by
  obtain ⟨-, hv10, hv⟩ := hv
  obtain ⟨hw1, -, hw⟩ := hw
  by_cases hfit : n ≤ P.cap 10
  · rw [if_pos hfit] at hw
    rw [if_pos (hmn.trans hfit)] at hv
    by_contra hlt
    have hsmall : P.cap w < m := hv.2 w hw1 (by omega)
    have hlarge : n ≤ P.cap w := hw.1
    omega
  · rw [if_neg hfit] at hw
    omega

/-! ### VSEL -/

/-- VSEL of the core with parameters P has no test of its own (rule R109, "Faults: none"). -/
theorem execOf_vsel_of_ready (P : Params) {s : State} (hs : Ready s) : execOf P .vsel s = .next (vselEffect P s) :=
  command_of_no_test (tests := []) hs (List.forall_mem_nil _)

/-- The effect of VSEL with the overflow bit in closed form (rule R109): every field it writes, and no other. -/
theorem vselEffect_eq {P : Params} (hP : P.ok = true) (s : State) :
    vselEffect P s = { s with
      ver := BitVec.ofNat 4 (selectVersion P s.len.toNat).1, verv := true,
      ovf := decide (P.cap 10 < s.len.toNat), matv := false, masked := false, wact := false, wdone := false,
      wright := 0, wi := 0, wj := false, wup := false,
      res := BitVec.ofNat 32 (selectVersion P s.len.toNat).1 } := by
  rw [← selectVersion_overflow hP]
  rfl

/-- Settles O35: the downward loop finds the first version that fits, CAP never decreases, and VSEL runs that loop. -/
theorem selectionIsMonotoneForEveryInstance : Obligations.SelectionIsMonotoneForEveryInstance := by
  intro P hP
  refine ⟨fun m n => ⟨isSelected_selectVersion hP n, selectVersion_overflow hP n, fun hmn =>
    isSelected_le_isSelected (isSelected_selectVersion hP m) (isSelected_selectVersion hP n) hmn⟩, fun s hs => ?_⟩
  exact ⟨_, _, execOf_vsel_of_ready P hs, isSelected_selectVersion hP _, vselEffect_eq hP s⟩

end Machine
end Sys2Proof
end

section
/-! What one command and one step can do (rules R164, R178, R179), with the tests and the effect of every command named
once, so that an invariant is proved by what the effects do to it. -/

namespace Sys2Proof.Machine

open Sys2Proof.Claim

variable {i : Instr} {s t : State}

/-! ### The tests and the effect of each command -/

/-- The tests a command makes, in the order of rule R177. RESET makes none. -/
def testsOf (s : State) : Instr → List (Bool × FaultCode)
  | .nop | .reset | .gfinit | .setlen _ | .vsel => []
  | .rdreg a => [(above a 6, .range)]
  | .encode => [(above s.len (params.cap 10), .capacity)]
  | .gfmul _ _ => [(!s.tblv, .seq)]
  | .gfexp b => [(!s.tblv, .seq), (above b 510, .range)]
  | .gflog b => [(!s.tblv, .seq), (above b 255, .range), (isZero b, .log0)]
  | .rsgen b => [(!s.tblv, .seq), (isZero b || above b 255, .range)]
  | .rsclr => [(!s.genv, .seq)]
  | .rsstep b => [(!s.tblv || !s.genv, .seq), (above b 255, .range)]
  | .rsrd a => [(!s.genv, .seq), (atOrBeyond a s.genn.toNat, .range)]
  | .genrd a => [(!s.genv, .seq), (above a s.genn.toNat, .range)]
  | .rsenc => [(!s.tblv || !s.verv, .seq)]
  | .paywr a _ | .payrd a | .cwrd a => [(above a 511, .range)]
  | .setver b => [(isZero b || above b 10, .range)]
  | .pack => [(!s.verv, .seq), (above s.len (params.cap s.ver.toNat), .capacity)]
  | .cwwr a b => [(above a 511 || above b 255, .range)]
  | .mbuild | .winit => [(!s.verv, .seq)]
  | .mrd a b => [(!s.matv, .seq), (atOrBeyond a s.size || atOrBeyond b s.size, .range)]
  | .wnext => [(!s.wact, .seq)]
  | .place | .mask | .fmt => [(!s.matv, .seq)]

/-- What a command does to the state once its tests are passed. -/
def effectOf (i : Instr) (s : State) : State :=
  match i with
  | .nop => s
  | .reset => resetCore s
  | .rdreg a => s.setRes (s.register a.toNat)
  | .encode => encodeEffect params s
  | .gfinit => gfinitEffect s
  | .gfmul x y => s.setRes ((gfmul s.exp s.log x y).setWidth 32)
  | .gfexp b => s.setRes ((Memory.read s.exp b.toNat).setWidth 32)
  | .gflog b => s.setRes ((Memory.read s.log b.toNat).setWidth 32)
  | .rsgen b => rsgenEffect b.toNat s
  | .rsclr => rsclrEffect s
  | .rsstep b => rsstepEffect (b.setWidth 8) s
  | .rsrd a => s.setRes ((Memory.read s.reg a.toNat).setWidth 32)
  | .genrd a => s.setRes ((Memory.read s.gen a.toNat).setWidth 32)
  | .rsenc => rsencEffect params s
  | .paywr a b => { s with pay := Memory.write s.pay a.toNat b }
  | .setlen b => { s with len := b }
  | .vsel => vselEffect params s
  | .setver b => writeVersion (b.setWidth 4) false s
  | .pack => packEffect params s
  | .cwrd a => s.setRes ((Memory.read s.cw a.toNat).setWidth 32)
  | .cwwr a b => { s with cw := Memory.write s.cw a.toNat (b.setWidth 8) }
  | .payrd a => s.setRes ((Memory.read s.pay a.toNat).setWidth 32)
  | .mbuild => mbuildEffect params s
  | .mrd a b => s.setRes ((cellAt s.mat a.toNat b.toNat).bits.setWidth 32)
  | .winit => winitEffect s
  | .wnext => wnextEffect s
  | .place => placeEffect params s
  | .mask => maskEffect s
  | .fmt => fmtEffect params s

/-- Every command but RESET runs in the frame `command`, with its tests and its effect. -/
theorem exec_eq_command (hi : i ≠ .reset) (s : State) : exec i s = command (testsOf s i) (effectOf i) s := by
  cases i with
  | reset => exact absurd rfl hi
  | _ => rfl

/-- No test of the command holds. -/
def Passes (i : Instr) (s : State) : Prop := ∀ x ∈ testsOf s i, x.1 = false

/-! ### What a passed test says -/

theorem Passes.encode (h : Passes .encode s) : s.len.toNat ≤ params.cap 10 := by
  simpa [Passes, testsOf, above] using h

theorem Passes.rsgen {b : BitVec 16} (h : Passes (.rsgen b) s) : s.tblv = true ∧ 1 ≤ b.toNat ∧ b.toNat ≤ 255 := by
  simpa [Passes, testsOf, above, isZero, ← Nat.one_le_iff_ne_zero] using h

theorem Passes.rsenc (h : Passes .rsenc s) : s.tblv = true ∧ s.verv = true := by
  simpa [Passes, testsOf] using h

theorem Passes.setver {b : BitVec 16} (h : Passes (.setver b) s) : 1 ≤ b.toNat ∧ b.toNat ≤ 10 := by
  simpa [Passes, testsOf, above, isZero, ← Nat.one_le_iff_ne_zero] using h

theorem Passes.mbuild (h : Passes .mbuild s) : s.verv = true := by simpa [Passes, testsOf] using h

theorem Passes.winit (h : Passes .winit s) : s.verv = true := by simpa [Passes, testsOf] using h

theorem Passes.wnext (h : Passes .wnext s) : s.wact = true := by simpa [Passes, testsOf] using h

theorem Passes.place (h : Passes .place s) : s.matv = true := by simpa [Passes, testsOf] using h

theorem Passes.mask (h : Passes .mask s) : s.matv = true := by simpa [Passes, testsOf] using h

/-! ### Everything a command and a step can do -/

/-- The states a command can lead to from `s`. -/
inductive Runs (i : Instr) (s : State) : State → Prop where
  | reset (hi : i = .reset) : Runs i s (resetCore s)
  | ignored (hi : i ≠ .reset) (hs : s.fault = true) : Runs i s s
  | faulted (hi : i ≠ .reset) (hs : s.fault = false) (k : FaultCode) : Runs i s (raiseFault k s)
  | performed (hi : i ≠ .reset) (hs : s.fault = false) (hpass : Passes i s) : Runs i s (effectOf i s)

theorem exec_runs (h : exec i s = .next t) : Runs i s t := by
  by_cases hi : i = .reset
  · subst hi
    cases h
    exact .reset rfl
  · rw [exec_eq_command hi] at h
    obtain ⟨hs, rfl⟩ | ⟨hs, x, -, -, rfl⟩ | ⟨hs, hpass, rfl⟩ := command_cases h
    · exact .ignored hi hs
    · exact .faulted hi hs x.2
    · exact .performed hi hs hpass

/-- The states one step can lead to from `s`, by what the host does next (rules R66, R164, R195, R196). -/
inductive Steps (s : State) : State → Prop where
  | idle (h : s.pending = []) : Steps s s
  | resetInput (rest : List HostEvent) (h : s.pending = .resetInput :: rest) :
      Steps s (resetCore { s with pending := rest })
  | illegal (w : Word) (rest : List HostEvent) (h : s.pending = .command w :: rest) (hw : decode w = none)
      (hs : s.fault = false) : Steps s (raiseFault .illegal { s with pending := rest })
  | ignored (w : Word) (rest : List HostEvent) (h : s.pending = .command w :: rest) (hw : decode w = none)
      (hs : s.fault = true) : Steps s { s with pending := rest }
  | command (w : Word) (rest : List HostEvent) (h : s.pending = .command w :: rest) (i : Instr)
      (hw : decode w = some i) {t : State} (ht : Runs i { s with pending := rest } t) : Steps s t

theorem step_steps (h : step s = .next t) : Steps s t := by
  match hp : s.pending with
  | [] =>
    rw [step_of_nothing hp] at h
    cases h
    exact .idle hp
  | .resetInput :: rest =>
    rw [step_of_resetInput hp] at h
    cases h
    exact .resetInput rest hp
  | .command w :: rest =>
    rw [step_of_command hp] at h
    match hw : decode w with
    | some i =>
      rw [hw] at h
      exact .command w rest hp i hw (exec_runs h)
    | none =>
      rw [hw] at h
      cases hs : s.fault with
      | true =>
        cases (illegalWord_of_faulted (s := { s with pending := rest }) hs).symm.trans h
        exact .ignored w rest hp hw hs
      | false =>
        cases (illegalWord_of_ready (s := { s with pending := rest }) hs).symm.trans h
        exact .illegal w rest hp hw hs

/-- An invariant of the core: it does not speak of what the host has still to do, holds at reset, survives a fault, and
every effect that is performed keeps it. Then every step keeps it. -/
theorem step_keeps {I : State → Prop} (hpending : ∀ s p, I s → I { s with pending := p }) (hreset : I State.reset)
    (hfault : ∀ k s, I s → I (raiseFault k s))
    (heffect : ∀ i s, i ≠ .reset → Passes i s → I s → I (effectOf i s)) (hs : I s) (h : step s = .next t) : I t := by
  have hcore : ∀ s, I (resetCore s) := fun s => hpending State.reset s.pending hreset
  cases step_steps h with
  | idle hp => exact hs
  | resetInput rest hp => exact hcore _
  | illegal w rest hp hw hf => exact hfault _ { s with pending := rest } (hpending s rest hs)
  | ignored w rest hp hw hf => exact hpending s rest hs
  | command w rest hp i hw ht =>
    cases ht with
    | reset hi => exact hcore _
    | ignored hi hf => exact hpending s rest hs
    | faulted hi hf k => exact hfault k { s with pending := rest } (hpending s rest hs)
    | performed hi hf hpass => exact heffect i { s with pending := rest } hi hpass (hpending s rest hs)

/-! ### The frames of WNEXT and ENCODE; FAULT, ERR and the pending events under every effect -/

theorem wnextEffect_frame (s : State) :
    ∃ x wr c j up act done, wnextEffect s =
      { s with res := x, wright := wr, wi := c, wj := j, wup := up, wact := act, wdone := done } := by
  obtain ⟨wr, c, j, up, act, done, h⟩ := advanceWalker_frame
    (s.setRes ((BitVec.ofNat 32 s.walkRow <<< 8) ||| BitVec.ofNat 32 s.walkCol))
  exact ⟨_, wr, c, j, up, act, done, h⟩

/-- Everything ENCODE may change, with the registers and flags it leaves (rule R165). -/
theorem encodeEffect_frame (P : Params) (s : State) :
    ∃ e l g r c m, encodeEffect P s = { s with
      res := BitVec.ofNat 32 (selectVersion P s.len.toNat).1,
      ver := BitVec.ofNat 4 (selectVersion P s.len.toNat).1,
      genn := BitVec.ofNat 8 (P.ecc (BitVec.ofNat 4 (selectVersion P s.len.toNat).1).toNat),
      tblv := true, genv := true, verv := true, matv := true, masked := true,
      ovf := (selectVersion P s.len.toNat).2, chtrunc := anyTruncated s.len.toNat s.pay,
      wright := 1, wi := 0, wj := false, wup := true, wact := false, wdone := true,
      exp := e, log := l, gen := g, reg := r, cw := c, mat := m } := by
  obtain ⟨g, r, c, hrsenc⟩ := rsencEffect_frame P (packEffect P (vselEffect P (gfinitEffect s)))
  obtain ⟨m, hfmt⟩ := fmtEffect_frame P (maskEffect (placeEffect P (mbuildEffect P
    (rsencEffect P (packEffect P (vselEffect P (gfinitEffect s)))))))
  refine ⟨(gfinitEffect s).exp, (gfinitEffect s).log, g, r, c, m, ?_⟩
  -- RSENC and FMT by their frames, the other units by their definitions
  simp only [encodeEffect, hfmt]
  simp only [hrsenc, maskEffect, placeEffect, mbuildEffect, Bool.not_false]
  simp only [packEffect, vselEffect, State.setRes, writeVersion, gfinitEffect]

theorem effectOf_fault_err_pending (hi : i ≠ .reset) (s : State) :
    (effectOf i s).fault = s.fault ∧ (effectOf i s).err = s.err ∧ (effectOf i s).pending = s.pending := by
  cases i with
  | reset => exact absurd rfl hi
  | encode =>
    obtain ⟨_, _, _, _, _, _, h⟩ := encodeEffect_frame params s
    simp only [effectOf, h, and_self]
  | rsenc =>
    obtain ⟨_, _, _, h⟩ := rsencEffect_frame params s
    simp only [effectOf, h, and_self]
  | wnext =>
    obtain ⟨_, _, _, _, _, _, _, h⟩ := wnextEffect_frame s
    simp only [effectOf, h, and_self]
  | fmt =>
    obtain ⟨_, h⟩ := fmtEffect_frame params s
    simp only [effectOf, h, and_self]
  | _ => exact ⟨rfl, rfl, rfl⟩

end Sys2Proof.Machine
end

section
/-! The agreement of the registers and the flags (rules R12 to R17) and its preservation, unit by unit and then for
every step. -/

namespace Sys2Proof

/-- P4 of rule R7: the number of check bytes of a version. -/
theorem Params.ecc_bounds {P : Params} (hP : P.ok = true) {v : Nat} (h1 : 1 ≤ v) (h10 : v ≤ 10) :
    1 ≤ P.ecc v ∧ P.ecc v ≤ 255 := by
  simp only [Params.ok, Bool.and_eq_true] at hP
  obtain ⟨⟨⟨⟨-, -⟩, -⟩, hcounts⟩, -⟩ := hP
  simp only [Params.counts, List.all_eq_true, decide_eq_true_eq] at hcounts
  obtain ⟨hlow, hhigh, -⟩ := hcounts v (List.mem_range'_1.2 ⟨h1, by omega⟩)
  exact ⟨hlow, hhigh⟩

namespace Machine

open Sys2Proof.Claim

variable {s t : State}

/-- The default tables meet rule R7. -/
theorem params_ok : params.ok = true := by decide

/-! ### The invariant, clause by clause -/

/-- Where the walker stands (rules R14, R141): in the pair with right-hand column `right`, walked upward or not. -/
def PairOk (size right : Nat) (up : Bool) : Prop :=
  if 8 ≤ right then right ≤ size - 1 ∧ right % 2 = 0 ∧ up = decide (right / 2 % 2 = 0)
  else (right = 1 ∨ right = 3 ∨ right = 5) ∧ up = decide (right = 3)

theorem walkerOk_iff : s.walkerOk = true ↔ s.wi.toNat < s.size ∧ PairOk s.size s.wright.toNat s.wup := by
  simp only [State.walkerOk, PairOk]
  split <;> simp [and_assoc]

/-- The three states of the walker (rules R14, R15): it has a next cell, it has yielded its last, or it has not been
started for this version. -/
structure State.WalkerAgrees (s : State) : Prop where
  active : s.wact = true → s.verv = true ∧ s.wdone = false ∧ s.walkerOk = true
  finished : s.wdone = true → s.verv = true ∧ s.walk = 0x2040#14
  unused : s.wact = false → s.wdone = false → s.walk = 0#14

theorem State.WalkerAgrees.of_active (hact : s.wact = true) (hdone : s.wdone = false) (hv : s.verv = true)
    (hok : s.walkerOk = true) : s.WalkerAgrees :=
  ⟨fun _ => ⟨hv, hdone, hok⟩, by simp [hdone], by simp [hact]⟩

theorem State.WalkerAgrees.of_finished (hact : s.wact = false) (hdone : s.wdone = true) (hv : s.verv = true)
    (hwalk : s.walk = 0x2040#14) : s.WalkerAgrees :=
  ⟨by simp [hact], fun _ => ⟨hv, hwalk⟩, by simp [hdone]⟩

/-- VER, GENN and the flags that speak of them (rules R12, R15). -/
structure State.VersionAgrees (s : State) : Prop where
  verv : s.verv = true ↔ 1 ≤ s.ver.toNat
  ver : s.ver.toNat ≤ 10
  genv : s.genv = true ↔ 1 ≤ s.genn.toNat
  matv : s.matv = true → s.verv = true
  masked : s.masked = true → s.matv = true
  ovf : s.ovf = true → s.ver.toNat = 10

/-- FAULT and ERR (rules R15, R17). -/
structure State.FaultAgrees (s : State) : Prop where
  fault : s.fault = true ↔ s.err ≠ 0#8
  err : s.err.toNat ≤ 5

theorem registersOk_iff : s.registersOk = true ↔ s.FaultAgrees ∧ s.VersionAgrees ∧ s.WalkerAgrees := by
  simp only [State.registersOk, Bool.and_eq_true, Bool.or_eq_true, Bool.not_eq_true', beq_iff_eq, decide_eq_true_eq,
    Bool.eq_iff_iff (b := decide _)]
  -- what remains is that each `!a || b` of the definition is the implication from `a` to `b`
  constructor
  · rintro ⟨⟨⟨⟨⟨⟨⟨⟨⟨⟨hfault, herr⟩, hverv⟩, hver⟩, hgenv⟩, hmatv⟩, hmasked⟩, hovf⟩, hwact⟩, hwdone⟩, hwalk⟩
    refine ⟨⟨hfault, herr⟩, ⟨hverv, hver, hgenv, ?_, ?_, ?_⟩, ?_, ?_, ?_⟩ <;> intros <;> simp_all
  · rintro ⟨⟨hfault, herr⟩, ⟨hverv, hver, hgenv, hmatv, hmasked, hovf⟩, hwact, hwdone, hwalk⟩
    refine ⟨⟨⟨⟨⟨⟨⟨⟨⟨⟨hfault, herr⟩, hverv⟩, hver⟩, hgenv⟩, ?_⟩, ?_⟩, ?_⟩, ?_⟩, ?_⟩, ?_⟩
    all_goals grind

/-! ### The units -/

/-- The codes of the five faults (rule R176). -/
theorem FaultCode.code_bounds (k : FaultCode) : 1 ≤ k.code.toNat ∧ k.code.toNat ≤ 5 := by cases k <;> decide

theorem registersOk_raiseFault (k : FaultCode) (h : s.registersOk = true) : (raiseFault k s).registersOk = true := by
  obtain ⟨-, hversion, hwalker⟩ := registersOk_iff.1 h
  obtain ⟨hlow, hhigh⟩ := k.code_bounds
  refine registersOk_iff.2 ⟨⟨?_, hhigh⟩, { hversion with }, { hwalker with }⟩
  simp only [raiseFault_fault, raiseFault_err, true_iff]
  intro hzero
  simp [hzero] at hlow

/-- A degree in 1..255 agrees with GENV = 1 (rule R91). -/
theorem registersOk_rsgenEffect {n : Nat} (h1 : 1 ≤ n) (h255 : n ≤ 255) (h : s.registersOk = true) :
    (rsgenEffect n s).registersOk = true := by
  obtain ⟨hfault, hversion, hwalker⟩ := registersOk_iff.1 h
  have hgenn : (rsgenEffect n s).genn.toNat = n := by simp [rsgenEffect]; omega
  exact registersOk_iff.2 ⟨{ hfault with }, { hversion with genv := by simp [hgenn, h1]; rfl }, { hwalker with }⟩

theorem State.VersionAgrees.ver_of_verv (h : s.VersionAgrees) (hv : s.verv = true) :
    1 ≤ s.ver.toNat ∧ s.ver.toNat ≤ 10 := ⟨h.verv.1 hv, h.ver⟩

theorem registersOk_rsencEffect (hv : s.verv = true) (h : s.registersOk = true) :
    (rsencEffect params s).registersOk = true := by
  obtain ⟨-, hversion, -⟩ := registersOk_iff.1 h
  obtain ⟨h1, h10⟩ := hversion.ver_of_verv hv
  obtain ⟨hlow, hhigh⟩ := Params.ecc_bounds params_ok h1 h10
  obtain ⟨g, r, c, hframe⟩ := rsencEffect_frame params s
  rw [hframe]
  exact registersOk_rsgenEffect hlow hhigh h

/-- A version in 1..10 is valid, and nothing is then built or walked for it (rules R109, R111). -/
theorem registersOk_writeVersion {v : BitVec 4} {o : Bool} (h1 : 1 ≤ v.toNat) (h10 : v.toNat ≤ 10)
    (ho : o = true → v.toNat = 10) (h : s.registersOk = true) : (writeVersion v o s).registersOk = true := by
  obtain ⟨hfault, hversion, -⟩ := registersOk_iff.1 h
  refine registersOk_iff.2 ⟨{ hfault with }, ?_, ?_⟩
  · exact { hversion with verv := by simp [h1], ver := h10, matv := by simp, masked := by simp, ovf := ho }
  · exact ⟨by simp, by simp, by simp⟩

theorem registersOk_vselEffect (h : s.registersOk = true) : (vselEffect params s).registersOk = true := by
  obtain ⟨v, h1, h10, -, -, heq⟩ | ⟨-, heq⟩ := selectVersion_cases params s.len.toNat
  · have hv : (BitVec.ofNat 4 v).toNat = v := by simp; omega
    have hok : (writeVersion (BitVec.ofNat 4 v) false s).registersOk = true :=
      registersOk_writeVersion (by omega) (by omega) (by simp) h
    rw [vselEffect, heq]
    exact hok
  · have hok : (writeVersion 10 true s).registersOk = true :=
      registersOk_writeVersion (by decide) (by decide) (by decide) h
    rw [vselEffect, heq]
    exact hok

theorem registersOk_mbuildEffect (hv : s.verv = true) (h : s.registersOk = true) :
    (mbuildEffect params s).registersOk = true := by
  obtain ⟨hfault, hversion, hwalker⟩ := registersOk_iff.1 h
  exact registersOk_iff.2
    ⟨{ hfault with }, { hversion with matv := fun _ => hv, masked := fun _ => rfl }, { hwalker with }⟩

/-- PLACE leaves the walker finished (rule R144). -/
theorem registersOk_placeEffect (hm : s.matv = true) (h : s.registersOk = true) :
    (placeEffect params s).registersOk = true := by
  obtain ⟨hfault, hversion, -⟩ := registersOk_iff.1 h
  exact registersOk_iff.2 ⟨{ hfault with }, { hversion with },
    .of_finished rfl rfl (hversion.matv hm) (by simp [placeEffect, State.walk])⟩

theorem registersOk_maskEffect (hm : s.matv = true) (h : s.registersOk = true) :
    (maskEffect s).registersOk = true := by
  obtain ⟨hfault, hversion, hwalker⟩ := registersOk_iff.1 h
  exact registersOk_iff.2 ⟨{ hfault with }, { hversion with masked := fun _ => hm }, { hwalker with }⟩

theorem registersOk_fmtEffect (h : s.registersOk = true) : (fmtEffect params s).registersOk = true := by
  obtain ⟨m, hframe⟩ := fmtEffect_frame params s
  rw [hframe]
  exact h

/-! ### The walker -/

/-- The side of the selected version (rule R5). -/
theorem State.VersionAgrees.size (h : s.VersionAgrees) (hv : s.verv = true) :
    s.size % 4 = 1 ∧ 21 ≤ s.size ∧ s.size ≤ 57 := by
  have hver := h.ver_of_verv hv
  simp only [State.size, side]
  omega

theorem registersOk_winitEffect (hv : s.verv = true) (h : s.registersOk = true) :
    (winitEffect s).registersOk = true := by
  obtain ⟨hfault, hversion, -⟩ := registersOk_iff.1 h
  obtain ⟨hmod, hlow, hhigh⟩ := hversion.size hv
  have hright : (winitEffect s).wright.toNat = s.size - 1 := by simp [winitEffect]; omega
  refine registersOk_iff.2 ⟨{ hfault with }, { hversion with }, .of_active rfl rfl hv (walkerOk_iff.2 ⟨?_, ?_⟩)⟩
  · change 0 < s.size
    omega
  · change PairOk s.size _ true
    rw [hright, PairOk, if_pos (by omega)]
    refine ⟨by omega, by omega, ?_⟩
    simp
    omega

/-- The next pair of a traversal is again a pair of it, walked the other way (rule R141). -/
theorem PairOk.next {size right : Nat} {up : Bool} (h : PairOk size right up) (hlast : right ≠ 1) :
    PairOk size (skipTiming (right - 2)) (!up) := by
  unfold PairOk at h ⊢
  split at h
  · next hright =>
    obtain ⟨hle, heven, hup⟩ := h
    by_cases h8 : right = 8
    · subst h8
      simp [skipTiming, hup]
    · have hskip : skipTiming (right - 2) = right - 2 := if_neg (by omega)
      rw [hskip, if_pos (by omega), hup]
      refine ⟨by omega, by omega, ?_⟩
      rw [← decide_not, decide_eq_decide]
      omega
  · obtain ⟨rfl | rfl | rfl, hup⟩ := h
    · exact absurd rfl hlast
    · simp [skipTiming, hup]
    · simp [skipTiming, hup]

theorem PairOk.right_lt {size right : Nat} {up : Bool} (h : PairOk size right up) (hsize : size ≤ 57) :
    right < 57 := by
  unfold PairOk at h
  split at h <;> omega

/-- The last pair is walked downward, so its end turns the walker upward (rules R141, R143). -/
theorem PairOk.up_of_last {size : Nat} {up : Bool} (h : PairOk size 1 up) : up = false := by
  simpa [PairOk] using h

/-- What WNEXT makes of an active walker (rule R143). -/
theorem walkerAgrees_advanceWalker (hact : s.wact = true) (hversion : s.VersionAgrees) (h : s.WalkerAgrees) :
    (advanceWalker s).WalkerAgrees := by
  obtain ⟨hv, hdone, hok⟩ := h.active hact
  obtain ⟨hrow, hpair⟩ := walkerOk_iff.1 hok
  obtain ⟨-, -, hsize⟩ := hversion.size hv
  unfold advanceWalker nextPair
  split
  · exact .of_active hact hdone hv (walkerOk_iff.2 ⟨hrow, hpair⟩)
  · split
    · next hmore =>
      refine .of_active hact hdone hv (walkerOk_iff.2 ⟨?_, hpair⟩)
      change (s.wi + 1).toNat < s.size
      rw [BitVec.toNat_add, show (1 : BitVec 6).toNat = 1 from rfl]
      omega
    · dsimp only
      split
      · next hlast =>
        rw [hlast] at hpair
        have hright : s.wright = 1#6 := BitVec.eq_of_toNat_eq hlast
        exact .of_finished rfl rfl hv (by simp [State.walk, hright, hpair.up_of_last])
      · next hlast =>
        have hnext := hpair.next hlast
        have hlt := hnext.right_lt hsize
        refine .of_active hact hdone hv (walkerOk_iff.2 ⟨?_, ?_⟩)
        · change 0 < s.size
          omega
        · change PairOk s.size (BitVec.ofNat 6 _).toNat _
          rwa [BitVec.toNat_ofNat, Nat.mod_eq_of_lt (by omega)]

theorem registersOk_wnextEffect (hact : s.wact = true) (h : s.registersOk = true) :
    (wnextEffect s).registersOk = true := by
  obtain ⟨hfault, hversion, hwalker⟩ := registersOk_iff.1 h
  have hwalker' : (wnextEffect s).WalkerAgrees :=
    walkerAgrees_advanceWalker (s := s.setRes _) hact { hversion with } { hwalker with }
  obtain ⟨x, wr, c, j, up, act, done, hframe⟩ := wnextEffect_frame s
  rw [hframe] at hwalker' ⊢
  exact registersOk_iff.2 ⟨{ hfault with }, { hversion with }, hwalker'⟩

/-! ### Every effect and every step -/

theorem registersOk_encodeEffect (h : s.registersOk = true) : (encodeEffect params s).registersOk = true := by
  have hvsel := registersOk_vselEffect (s := gfinitEffect s) h
  have hrsenc := registersOk_rsencEffect (s := packEffect params (vselEffect params (gfinitEffect s))) rfl hvsel
  have hverv : (rsencEffect params (packEffect params (vselEffect params (gfinitEffect s)))).verv = true := by
    obtain ⟨_, _, _, hframe⟩ := rsencEffect_frame params (packEffect params (vselEffect params (gfinitEffect s)))
    rw [hframe]
    rfl
  have hplace := registersOk_placeEffect (s := mbuildEffect params _) rfl (registersOk_mbuildEffect hverv hrsenc)
  exact registersOk_fmtEffect (registersOk_maskEffect rfl hplace)

theorem registersOk_effectOf {i : Instr} (hi : i ≠ .reset) (hpass : Passes i s) (h : s.registersOk = true) :
    (effectOf i s).registersOk = true := by
  cases i with
  | reset => exact absurd rfl hi
  | encode => exact registersOk_encodeEffect h
  | rsgen b => exact registersOk_rsgenEffect hpass.rsgen.2.1 hpass.rsgen.2.2 h
  | rsenc => exact registersOk_rsencEffect hpass.rsenc.2 h
  | vsel => exact registersOk_vselEffect h
  | setver b =>
    obtain ⟨h1, h10⟩ := hpass.setver
    have hb : (b.setWidth 4).toNat = b.toNat := by simp; omega
    exact registersOk_writeVersion (by omega) (by omega) (by simp) h
  | mbuild => exact registersOk_mbuildEffect hpass.mbuild h
  | winit => exact registersOk_winitEffect hpass.winit h
  | wnext => exact registersOk_wnextEffect hpass.wnext h
  | place => exact registersOk_placeEffect hpass.place h
  | mask => exact registersOk_maskEffect hpass.mask h
  | fmt => exact registersOk_fmtEffect h
  | _ => exact h

/-- Settles O55: each clause is kept by a fault and by the effect of every command that passes its tests. -/
theorem stepKeepsTheRegisters : Obligations.StepKeepsTheRegisters := fun _ _ hs h =>
  step_keeps (I := fun s => s.registersOk = true) (fun _ _ h => h) (by decide) (fun k _ h => registersOk_raiseFault k h)
    (fun _ _ hi hpass h => registersOk_effectOf hi hpass h) hs h

end Machine
end Sys2Proof
end

section
/-! The fault registers, the flags and the owners of the stores (rules R12 to R25), and the values at reset (rule
R28). -/

namespace Sys2Proof

/-- A word is packed from its own fields (rule R60). -/
theorem packWord_fields (w : Word) : packWord (fieldOp w) (fieldA w) (fieldB w) = w := by
  apply BitVec.eq_of_getLsbD_eq
  intro i hi
  simp only [getLsbD_packWord, fieldOp, fieldA, fieldB, BitVec.getLsbD_extractLsb']
  split
  · simp_all
  · split
    · simp_all
    · simp_all
      grind

/-- The one word of RESET (rules R63, R179). -/
theorem eq_reset_of_decode {w : Word} (h : decode w = some .reset) : w = 0x04000000#32 := by
  have hfields : (fieldOp w).toNat = 0x01 ∧ fieldA w = 0#10 ∧ fieldB w = 0#16 := by
    simp only [decode] at h
    split at h <;> simp_all [formatZ, formatA, formatB]
  obtain ⟨hop, ha, hb⟩ := hfields
  rw [← packWord_fields w, ha, hb, show fieldOp w = 0x01#6 from BitVec.eq_of_toNat_eq hop]
  rfl

namespace Machine

open Sys2Proof.Claim

variable {i : Instr} {s t : State}

/-! ### FAULT and ERR -/

/-- Settles O12: an effect leaves FAULT and ERR alone, a fault is taken while FAULT = 0, and only RESET, by its word or
the reset input, clears them. -/
theorem errChangesOnlyAtTheFirstFaultAndAtReset : Obligations.ErrChangesOnlyAtTheFirstFaultAndAtReset := by
  intro s t h
  cases step_steps h with
  | idle hp => exact .inl ⟨rfl, rfl⟩
  | resetInput rest hp => exact .inr (.inr ⟨rfl, rfl, rest, .inl hp⟩)
  | illegal w rest hp hw hs => exact .inr (.inl ⟨hs, rfl, FaultCode.code_bounds .illegal⟩)
  | ignored w rest hp hw hs => exact .inl ⟨rfl, rfl⟩
  | command w rest hp i hw ht =>
    cases ht with
    | reset hi =>
      subst hi
      exact .inr (.inr ⟨rfl, rfl, rest, .inr (eq_reset_of_decode hw ▸ hp)⟩)
    | ignored hi hs => exact .inl ⟨rfl, rfl⟩
    | faulted hi hs k => exact .inr (.inl ⟨hs, rfl, k.code_bounds⟩)
    | performed hi hs hpass =>
      obtain ⟨hfault, herr, -⟩ := effectOf_fault_err_pending hi { s with pending := rest }
      exact .inl ⟨hfault, herr⟩

/-! ### The flags -/

/-- CHTRUNC (rule R15): above 255 and "a nonzero high byte" are the same test. -/
theorem anyTruncated_eq_truncates (s : State) : anyTruncated s.len.toNat s.pay = truncates s := by
  have high : ∀ x : Char16, decide (255 < x.toNat) = decide (x.extractLsb' 8 8 ≠ 0#8) := by
    intro x
    rw [decide_eq_decide, ne_eq, ← BitVec.toNat_inj, BitVec.extractLsb'_toNat, Nat.shiftRight_eq_div_pow]
    have := x.isLt
    simp
    omega
  simp only [anyTruncated, truncates, high]

/-- The walker's flags after WNEXT (rules R15, R143). -/
theorem wnextEffect_flags (hact : s.wact = true) :
    (wnextEffect s).wact = !atLastCell s ∧ (wnextEffect s).wdone = (atLastCell s || s.wdone) := by
  rw [wnextEffect, advanceWalker]
  split
  · next hj => simp_all [atLastCell]
  · next hj =>
    rw [Bool.not_eq_false] at hj
    change s.wj = true at hj
    split
    · next hmore =>
      have hrow : ¬ s.size - 1 ≤ s.wi.toNat := Nat.not_le.2 hmore
      simp [atLastCell, hrow, hact]
    · next hmore =>
      have hrow : s.size - 1 ≤ s.wi.toNat := Nat.not_lt.1 hmore
      by_cases hlast : s.wright.toNat = 1 <;> simp [nextPair, atLastCell, hj, hrow, hlast, hact]

/-- Settles O13: the flags of each effect, command by command. -/
theorem flagsChangeOnlyAsTheTableSays : Obligations.FlagsChangeOnlyAsTheTableSays := by
  intro i s t hready h hfault
  cases exec_runs h with
  | reset hi =>
    subst hi
    exact ⟨rfl, rfl, rfl, rfl, rfl, rfl, rfl, rfl, rfl⟩
  | ignored hi hs => exact absurd (hready.symm.trans hs) Bool.false_ne_true
  | faulted hi hs k => exact absurd hfault (by simp)
  | performed hi hs hpass =>
    cases i with
    | reset => exact absurd rfl hi
    | encode =>
      obtain ⟨_, _, _, _, _, _, hframe⟩ := encodeEffect_frame params s
      have hovf : (selectVersion params s.len.toNat).2 = false := by
        rw [selectVersion_overflow params_ok, decide_eq_false (by have := hpass.encode; omega)]
      rw [effectOf, hframe, hovf, anyTruncated_eq_truncates]
      exact ⟨rfl, rfl, rfl, rfl, rfl, rfl, rfl, rfl, rfl⟩
    | rsenc =>
      obtain ⟨_, _, _, hframe⟩ := rsencEffect_frame params s
      rw [effectOf, hframe]
      exact ⟨rfl, rfl, rfl, rfl, rfl, rfl, rfl, rfl, rfl⟩
    | vsel => exact ⟨rfl, rfl, rfl, rfl, rfl, selectVersion_overflow params_ok _, rfl, rfl, rfl⟩
    | pack => exact ⟨rfl, rfl, rfl, rfl, rfl, rfl, anyTruncated_eq_truncates s, rfl, rfl⟩
    | wnext =>
      obtain ⟨hwact, hwdone⟩ := wnextEffect_flags hpass.wnext
      obtain ⟨_, _, _, _, _, _, _, hframe⟩ := wnextEffect_frame s
      rw [hframe] at hwact hwdone
      rw [effectOf, hframe]
      exact ⟨rfl, rfl, rfl, rfl, rfl, rfl, rfl, hwact, hwdone⟩
    | fmt =>
      obtain ⟨_, hframe⟩ := fmtEffect_frame params s
      rw [effectOf, hframe]
      exact ⟨rfl, rfl, rfl, rfl, rfl, rfl, rfl, rfl, rfl⟩
    | _ => exact ⟨rfl, rfl, rfl, rfl, rfl, rfl, rfl, rfl, rfl⟩

/-! ### The owners of the stores -/

/-- Settles O14: a command that is ignored or faults writes no store, and the effect of any other names the fields it
writes. -/
theorem storesAreWrittenOnlyByTheirOwners : Obligations.StoresAreWrittenOnlyByTheirOwners := by
  intro i s t h hreset hencode
  cases exec_runs h with
  | reset hi => exact absurd hi hreset
  | ignored hi hs => simp
  | faulted hi hs k => simp
  | performed hi hs hpass =>
    cases i with
    | reset => exact absurd rfl hreset
    | encode => exact absurd rfl hencode
    | rsenc =>
      obtain ⟨_, _, _, hframe⟩ := rsencEffect_frame params s
      simp [effectOf, hframe, State.walk]
    | wnext =>
      obtain ⟨_, _, _, _, _, _, _, hframe⟩ := wnextEffect_frame s
      simp [effectOf, hframe]
    | fmt =>
      obtain ⟨_, hframe⟩ := fmtEffect_frame params s
      simp [effectOf, hframe, State.walk]
    | _ =>
      simp [effectOf, gfinitEffect, rsgenEffect, rsclrEffect, rsstepEffect, vselEffect, packEffect, mbuildEffect,
        winitEffect, placeEffect, maskEffect, State.walk]

/-! ### STATUS and the values at reset -/

/-- STATUS, bit by bit (rule R16). -/
theorem getLsbD_status (s : State) (k : Nat) :
    s.status.getLsbD k =
      if k = 0 then s.tblv else if k = 1 then s.genv else if k = 2 then s.verv else if k = 3 then s.matv
      else if k = 4 then s.masked else if k = 5 then s.ovf else if k = 6 then s.chtrunc else if k = 7 then s.wact
      else if k = 8 then s.wdone else if k = 15 then s.fault else false := by
  by_cases hk : k < 16
  · rw [State.status]
    change BitVec.getLsbD (w := 1 + 6 + 1 + 1 + 1 + 1 + 1 + 1 + 1 + 1 + 1) _ k = _
    simp only [BitVec.getLsbD_append, BitVec.getLsbD_ofBool]
    interval_cases k <;> simp
  · rw [BitVec.getLsbD_of_ge _ _ (by omega)]
    simp (disch := omega) only [if_neg]

/-- Settles O16: STATUS read at each bit. -/
theorem statusPacksTheFlags : Obligations.StatusPacksTheFlags := by
  intro s
  simp only [getLsbD_status]
  refine ⟨rfl, rfl, rfl, rfl, rfl, rfl, rfl, rfl, rfl, fun k h9 h14 => ?_, rfl⟩
  simp (disch := omega) only [if_neg]

/-- Settles O9: the registers and flags by their definition, the cells because nothing is listed. -/
theorem resetStateHoldsTheResetValues : Obligations.ResetStateHoldsTheResetValues :=
  ⟨by decide, by decide, by decide, by decide, by decide, fun _ => ⟨rfl, rfl, rfl, rfl, rfl, rfl, rfl⟩⟩

/-- Settles O59: no flag is set, so nothing is claimed of the stores, and no store lists an index. -/
theorem invariantsHoldAtReset : Obligations.InvariantsHoldAtReset where
  registers := by decide
  stores := by decide
  tables := ⟨fun h => absurd h (by decide), fun h => absurd h (by decide), fun h => absurd h (by decide)⟩
  generator := fun h => absurd h (by decide)
  matrix := fun h => absurd h (by decide)

end Machine
end Sys2Proof
end

section
/-! The powers of 2 in the field (rule R80) and the tables GFINIT builds from them (rules R19, R20, R81). -/

namespace Sys2Proof.Claim

/-! ### The powers of 2 -/

theorem power_eq_iterate (i : Nat) : power i = twice^[i] 1 := by
  induction i with
  | zero => rfl
  | succ i ih => rw [power, ih, Function.iterate_succ_apply']

/-- 2^255 = 1, and no largest proper divisor of 255 is a period. -/
theorem power_periods : power 255 = 1 ∧ power 85 ≠ 1 ∧ power 51 ≠ 1 ∧ power 15 ≠ 1 := by decide +kernel

/-- 2 has order 255: every proper divisor of 255 divides 85, 51 or 15. -/
theorem minimalPeriod_twice : Function.minimalPeriod twice 1 = 255 := by
  obtain ⟨h255, h85, h51, h15⟩ := power_periods
  have hperiod : ∀ n, Function.minimalPeriod twice 1 ∣ n → power n = 1 := fun n hn =>
    (power_eq_iterate n).trans (Function.isPeriodicPt_iff_minimalPeriod_dvd.2 hn)
  have hdvd : Function.minimalPeriod twice 1 ∣ 255 :=
    Function.IsPeriodicPt.minimalPeriod_dvd ((power_eq_iterate 255).symm.trans h255)
  have hdivisors : ∀ d ∈ Nat.divisors 255, d = 255 ∨ d ∣ 85 ∨ d ∣ 51 ∨ d ∣ 15 := by decide
  obtain h | h | h | h := hdivisors _ (Nat.mem_divisors.2 ⟨hdvd, by decide⟩)
  · exact h
  · exact absurd (hperiod 85 h) h85
  · exact absurd (hperiod 51 h) h51
  · exact absurd (hperiod 15 h) h15

/-- The 255 powers are distinct (rule R20). -/
theorem power_inj {i j : Nat} (hi : i < 255) (hj : j < 255) (h : power i = power j) : i = j := by
  rw [power_eq_iterate, power_eq_iterate] at h
  exact Function.iterate_injOn_Iio_minimalPeriod (minimalPeriod_twice ▸ hi) (minimalPeriod_twice ▸ hj) h

/-- Zero is no power of 2: doubling it would never lead back to 1. -/
theorem power_ne_zero {i : Nat} (hi : i ≤ 255) : power i ≠ 0 := by
  intro hzero
  have hfixed : twice^[255 - i] 0 = 0 := Function.iterate_fixed rfl _
  have h255 := power_periods.1
  rw [power_eq_iterate, show 255 = 255 - i + i by omega, Function.iterate_add_apply, ← power_eq_iterate, hzero,
    hfixed] at h255
  exact absurd h255 (by decide)

/-- Every nonzero element is a power of 2 (rule R80): 255 distinct powers among 255 elements. -/
theorem exists_power {v : Nat} (h1 : 1 ≤ v) (h255 : v ≤ 255) : ∃ i, i < 255 ∧ (power i).toNat = v := by
  have hmaps : Set.MapsTo (fun i => (power i).toNat) (Finset.range 255) (Finset.Icc 1 255) := by
    intro i hi
    have hne := power_ne_zero (Finset.mem_range.1 hi).le
    rw [ne_eq, ← BitVec.toNat_inj] at hne
    have := (power i).isLt
    simp only [Finset.coe_Icc, Set.mem_Icc]
    change ¬ (power i).toNat = 0 at hne
    omega
  have hinj : Set.InjOn (fun i => (power i).toNat) (Finset.range 255) := fun i hi j hj h =>
    power_inj (Finset.mem_range.1 hi) (Finset.mem_range.1 hj) (BitVec.eq_of_toNat_eq h)
  obtain ⟨i, hi, hv⟩ := Finset.surjOn_of_injOn_of_card_le _ hmaps hinj (by simp)
    (Finset.mem_coe.2 (Finset.mem_Icc.2 ⟨h1, h255⟩))
  exact ⟨i, Finset.mem_range.1 hi, hv⟩

end Sys2Proof.Claim

namespace Sys2Proof.Machine

open Sys2Proof.Claim

/-! ### The loops of GFINIT -/

/-- The machine's doubling on 9 bits is the field's on 8 (rules R80, R81). -/
theorem gfDouble_setWidth (x : Byte) : gfDouble (x.setWidth 9) = (twice x).setWidth 9 := by
  revert x
  decide

/-- The first loop of rule R81 after k turns: it has written the first k powers and their logarithms. -/
theorem foldl_tableTurn (exp log : Memory Byte) (k : Nat) :
    (List.range k).foldl tableTurn { x := 1#9, exp := exp, log := log } =
      { x := (power k).setWidth 9
        exp := (List.range k).foldl (fun e i => Memory.write e i (power i)) exp
        log := (List.range k).foldl (fun l i => Memory.write l (power i).toNat (BitVec.ofNat 8 i)) log } := by
  induction k with
  | zero => rfl
  | succ k ih => simp [List.range_succ, List.foldl_append, ih, tableTurn, gfDouble_setWidth, power]

/-- A loop that writes `f b` at index `g b`, the indices without repeats: what it leaves at one of them. -/
theorem Memory.read_foldl_write_of_nodup {α β : Type} [Inhabited α] [DecidableEq α] (l : List β) (g : β → Nat)
    (f : β → α) (m : Memory α) (hl : (l.map g).Nodup) {b : β} (hb : b ∈ l) :
    Memory.read (l.foldl (fun m b => Memory.write m (g b) (f b)) m) (g b) = f b := by
  induction l generalizing m with
  | nil => cases hb
  | cons c rest ih =>
    obtain ⟨hc, hrest⟩ := List.nodup_cons.1 hl
    rw [List.foldl_cons]
    rcases List.mem_cons.1 hb with rfl | hb
    · have hnot : ∀ d ∈ rest, g d ≠ g b := fun d hd h => hc (List.mem_map.2 ⟨d, hd, h⟩)
      rw [Memory.read_foldl_write_of_not_mem rest g (fun _ => f) _ hnot, Memory.read_write_same]
    · exact ih _ hrest hb

/-- The second loop of rule R81: the table goes round with period 255. -/
theorem read_mirrorTable (exp : Memory Byte) (i : Nat) :
    Memory.read (mirrorTable exp) i = if i ≤ 510 then Memory.read exp (i % 255) else Memory.read exp i := by
  have turns : ∀ k, k ≤ 256 → ∀ i,
      Memory.read ((List.range' 255 k).foldl (fun e i => Memory.write e i (Memory.read e (i - 255))) exp) i =
        if i < 255 + k then Memory.read exp (i % 255) else Memory.read exp i := by
    intro k
    induction k with
    | zero =>
      intro _ i
      simp only [List.range'_zero, List.foldl_nil, Nat.add_zero]
      split
      · rw [Nat.mod_eq_of_lt (by omega)]
      · rfl
    | succ k ih =>
      intro hk i
      rw [List.range'_1_concat, List.foldl_append, List.foldl_cons, List.foldl_nil, Memory.read_write,
        ih (by omega), ih (by omega)]
      by_cases hik : i = 255 + k
      · subst hik
        rw [if_pos rfl, if_pos (by omega), if_pos (by omega), Nat.add_sub_cancel_left, Nat.add_mod_left]
      · rw [if_neg hik]
        exact if_congr (by omega) rfl rfl
  rw [mirrorTable, upTo, turns _ (by decide)]
  exact if_congr (by omega) rfl rfl

/-- EXP after GFINIT (rules R19, R81). -/
theorem read_buildTables_exp (exp log : Memory Byte) (i : Nat) :
    Memory.read (buildTables exp log).1 i = if i ≤ 510 then power (i % 255) else Memory.read exp i := by
  have hrange : upTo 0 254 = List.range 255 := by rw [upTo, List.range_eq_range']
  simp only [buildTables, hrange, foldl_tableTurn, read_mirrorTable, Memory.read_foldl_write, List.mem_range]
  split
  · rw [if_pos (Nat.mod_lt _ (by decide))]
  · rw [if_neg (by omega)]

/-- LOG after GFINIT (rules R20, R81). -/
theorem read_buildTables_log (exp log : Memory Byte) {i : Nat} (hi : i < 255) :
    Memory.read (buildTables exp log).2 (power i).toNat = BitVec.ofNat 8 i := by
  have hrange : upTo 0 254 = List.range 255 := by rw [upTo, List.range_eq_range']
  have hnodup : ((List.range 255).map (fun i => (power i).toNat)).Nodup :=
    List.nodup_range.map_on (fun i hi j hj h =>
      power_inj (List.mem_range.1 hi) (List.mem_range.1 hj) (BitVec.eq_of_toNat_eq h))
  simp only [buildTables, hrange, foldl_tableTurn]
  exact Memory.read_foldl_write_of_nodup _ (fun i => (power i).toNat) _ _ hnodup (List.mem_range.2 hi)

@[simp] theorem gfinitEffect_exp (s : State) : (gfinitEffect s).exp = (buildTables s.exp s.log).1 := by
  simp only [gfinitEffect]

@[simp] theorem gfinitEffect_log (s : State) : (gfinitEffect s).log = (buildTables s.exp s.log).2 := by
  simp only [gfinitEffect]

/-- Settles O19: every nonzero element is one of 255 distinct powers of 2, and LOG holds the exponent of each. -/
theorem logarithmInvertsExponent : Obligations.LogarithmInvertsExponent := by
  intro s hs
  refine ⟨gfinitEffect s, command_of_no_test (tests := []) hs (List.forall_mem_nil _), fun v h1 h255 => ?_, ?_⟩
  · obtain ⟨i, hi, rfl⟩ := exists_power h1 h255
    have hlog : (Memory.read (gfinitEffect s).log (power i).toNat).toNat = i := by
      rw [gfinitEffect_log, read_buildTables_log s.exp s.log hi, BitVec.toNat_ofNat, Nat.mod_eq_of_lt (by omega)]
    refine ⟨by omega, ?_⟩
    rw [hlog, gfinitEffect_exp, read_buildTables_exp, if_pos (by omega), Nat.mod_eq_of_lt hi, BitVec.ofNat_toNat,
      BitVec.setWidth_eq]
  · intro i j hi hj h
    rw [gfinitEffect_exp, read_buildTables_exp, read_buildTables_exp, if_pos (by omega), if_pos (by omega),
      Nat.mod_eq_of_lt (by omega), Nat.mod_eq_of_lt (by omega)] at h
    exact power_inj (by omega) (by omega) h

end Sys2Proof.Machine
end

section
/-! TBLV and GENV keep their meaning (rules R15, R19 to R21): GFINIT and RSGEN leave the same tables and the same
generator over whatever stood in the stores before. -/

namespace Sys2Proof.Machine

open Sys2Proof.Claim

variable {s t : State}

/-! ### GFINIT -/

/-- EXP after GFINIT does not depend on EXP and LOG before it. -/
theorem read_buildTables_exp_eq (exp log : Memory Byte) {i : Nat} (hi : i < Config.expDepth) :
    Memory.read (buildTables exp log).1 i = Memory.read (buildTables [] []).1 i := by
  have h510 : i ≤ 510 := Nat.le_of_lt_succ hi
  rw [read_buildTables_exp, read_buildTables_exp, if_pos h510, if_pos h510]

/-- Nor does LOG, above index 0: every other index is a power of 2. -/
theorem read_buildTables_log_eq (exp log : Memory Byte) {v : Nat} (h1 : 1 ≤ v) (hv : v < Config.logDepth) :
    Memory.read (buildTables exp log).2 v = Memory.read (buildTables [] []).2 v := by
  obtain ⟨i, hi, rfl⟩ := exists_power h1 (Nat.le_of_lt_succ hv)
  rw [read_buildTables_log exp log hi, read_buildTables_log [] [] hi]

theorem tablesOk_gfinitEffect (s : State) : (gfinitEffect s).TablesOk where
  exp _ i hi := by rw [gfinitEffect_exp, read_buildTables_exp_eq _ _ hi]
  log _ v h1 hv := by rw [gfinitEffect_log, read_buildTables_log_eq _ _ h1 hv]
  built _ := by obtain ⟨_, _, hframe⟩ := gfinitEffect_frame s; rw [hframe]

theorem generatorOk_gfinitEffect (h : s.GeneratorOk) : (gfinitEffect s).GeneratorOk := by
  obtain ⟨_, _, hframe⟩ := gfinitEffect_frame s
  rw [hframe]
  exact h

/-! ### RSGEN -/

/-- Two stores read alike at 0..n. -/
def AgreeUpTo (n : Nat) (g g' : Memory Byte) : Prop := ∀ j, j ≤ n → Memory.read g j = Memory.read g' j

/-- Writing the same element into both keeps them alike. -/
theorem AgreeUpTo.write {n : Nat} {g g' : Memory Byte} (h : AgreeUpTo n g g') (j : Nat) {x y : Byte} (hxy : x = y) :
    AgreeUpTo n (Memory.write g j x) (Memory.write g' j y) := by
  intro k hk
  rw [Memory.read_write, Memory.read_write, hxy, h k hk]

section
variable {exp exp' log log' : Memory Byte}
  (hexp : ∀ i, i < Config.expDepth → Memory.read exp i = Memory.read exp' i)
  (hlog : ∀ v, 1 ≤ v → v < Config.logDepth → Memory.read log v = Memory.read log' v)
include hexp hlog

/-- A product reads LOG at nonzero elements and EXP below its depth only (rule R82). -/
theorem gfmul_congr (a b : Byte) : gfmul exp log a b = gfmul exp' log' a b := by
  have hpos : ∀ x : Byte, x ≠ 0#8 → Memory.read log x.toNat = Memory.read log' x.toNat := fun x hx =>
    hlog x.toNat (Nat.one_le_iff_ne_zero.2 fun h => hx (BitVec.eq_of_toNat_eq h)) x.isLt
  unfold gfmul
  split
  · rfl
  · next hne =>
    obtain ⟨ha, hb⟩ := not_or.1 hne
    have hla := (Memory.read log' a.toNat).isLt
    have hlb := (Memory.read log' b.toNat).isLt
    rw [hpos a ha, hpos b hb, hexp _ (by rw [Config.expDepth]; omega)]

theorem AgreeUpTo.multiplyByRoot {n i : Nat} {g g' : Memory Byte} (h : AgreeUpTo n g g') (hi : i < n) (hn : n ≤ 255) :
    AgreeUpTo n (multiplyByRoot exp log g i) (multiplyByRoot exp' log' g' i) := by
  refine List.foldl_rel h fun j hj g g' h => h.write j ?_
  obtain ⟨-, hjn⟩ := mem_downTo.1 hj
  rw [h j (by omega), h (j - 1) (by omega), hexp i (by rw [Config.expDepth]; omega), gfmul_congr hexp hlog]

/-- The generator polynomial RSGEN builds depends on the tables only (rule R91). -/
theorem AgreeUpTo.buildGenerator {n : Nat} (hn : n ≤ 255) (gen gen' : Memory Byte) :
    AgreeUpTo n (buildGenerator exp log n gen) (buildGenerator exp' log' n gen') := by
  refine List.foldl_rel ?_ fun i hi g g' h => h.multiplyByRoot hexp hlog (List.mem_range.1 hi) hn
  intro j hj
  rw [read_startGenerator, read_startGenerator, if_pos hj, if_pos hj]

end

theorem tablesOk_rsgenEffect (n : Nat) (ht : s.tblv = true) (h : s.TablesOk) : (rsgenEffect n s).TablesOk :=
  { h with built := fun _ => ht }

theorem generatorOk_rsgenEffect {n : Nat} (hn : n ≤ 255) (ht : s.tblv = true) (h : s.TablesOk) :
    (rsgenEffect n s).GeneratorOk := by
  have hgenn : (rsgenEffect n s).genn.toNat = n := by simp [rsgenEffect]; omega
  intro _ j hj
  rw [hgenn] at hj ⊢
  exact AgreeUpTo.buildGenerator (h.exp ht) (h.log ht) hn s.gen [] j hj

/-! ### Every effect and every step -/

/-- RSENC is RSGEN but for REG and CW (rule R96). -/
theorem rsencEffect_eq_rsgenEffect (P : Params) (s : State) :
    ∃ r c, rsencEffect P s = { rsgenEffect (P.ecc s.ver.toNat) s with reg := r, cw := c } := by
  obtain ⟨r, hr⟩ := feedData_frame (P.data s.ver.toNat) (rsclrEffect (rsgenEffect (P.ecc s.ver.toNat) s))
  refine ⟨r, (rsencEffect P s).cw, ?_⟩
  simp only [rsencEffect, hr]
  rfl

theorem tablesAndGenerator_rsencEffect (ht : s.tblv = true) (hv : s.verv = true) (hregs : s.registersOk = true)
    (h : s.TablesOk) : (rsencEffect params s).TablesOk ∧ (rsencEffect params s).GeneratorOk := by
  obtain ⟨-, hversion, -⟩ := registersOk_iff.1 hregs
  obtain ⟨h1, h10⟩ := hversion.ver_of_verv hv
  obtain ⟨-, hecc⟩ := Params.ecc_bounds params_ok h1 h10
  obtain ⟨_, _, hframe⟩ := rsencEffect_eq_rsgenEffect params s
  rw [hframe]
  exact ⟨{ tablesOk_rsgenEffect (params.ecc s.ver.toNat) ht h with }, generatorOk_rsgenEffect hecc ht h⟩

/-- The matrix units leave the tables and the generator alone. -/
theorem tablesAndGenerator_matrixUnits (h : s.TablesOk ∧ s.GeneratorOk) :
    (fmtEffect params (maskEffect (placeEffect params (mbuildEffect params s)))).TablesOk ∧
      (fmtEffect params (maskEffect (placeEffect params (mbuildEffect params s)))).GeneratorOk := by
  obtain ⟨_, hframe⟩ := fmtEffect_frame params (maskEffect (placeEffect params (mbuildEffect params s)))
  rw [hframe]
  exact ⟨{ h.1 with }, h.2⟩

theorem tablesAndGenerator_encodeEffect (hregs : s.registersOk = true) :
    (encodeEffect params s).TablesOk ∧ (encodeEffect params s).GeneratorOk := by
  have hvsel := registersOk_vselEffect (s := gfinitEffect s) hregs
  have hkeep : ∀ u : State, u.TablesOk → (packEffect params (vselEffect params u)).TablesOk := fun u hu => { hu with }
  exact tablesAndGenerator_matrixUnits (tablesAndGenerator_rsencEffect
    (s := packEffect params (vselEffect params (gfinitEffect s))) rfl rfl hvsel (hkeep _ (tablesOk_gfinitEffect s)))

theorem tablesAndGenerator_effectOf {i : Instr} (hi : i ≠ .reset) (hpass : Passes i s) (hregs : s.registersOk = true)
    (h : s.TablesOk ∧ s.GeneratorOk) : (effectOf i s).TablesOk ∧ (effectOf i s).GeneratorOk := by
  obtain ⟨htables, hgenerator⟩ := h
  cases i with
  | reset => exact absurd rfl hi
  | encode => exact tablesAndGenerator_encodeEffect hregs
  | gfinit => exact ⟨tablesOk_gfinitEffect s, generatorOk_gfinitEffect hgenerator⟩
  | rsgen b =>
    obtain ⟨ht, -, h255⟩ := hpass.rsgen
    exact ⟨tablesOk_rsgenEffect _ ht htables, generatorOk_rsgenEffect h255 ht htables⟩
  | rsenc => exact tablesAndGenerator_rsencEffect hpass.rsenc.1 hpass.rsenc.2 hregs htables
  | wnext =>
    obtain ⟨_, _, _, _, _, _, _, hframe⟩ := wnextEffect_frame s
    rw [effectOf, hframe]
    exact ⟨{ htables with }, hgenerator⟩
  | fmt =>
    obtain ⟨_, hframe⟩ := fmtEffect_frame params s
    rw [effectOf, hframe]
    exact ⟨{ htables with }, hgenerator⟩
  | _ => exact ⟨{ htables with }, hgenerator⟩

/-- Settles O57: GFINIT and RSGEN establish the two meanings, no other command writes the stores they speak of. -/
theorem stepKeepsTablesAndGenerator : Obligations.StepKeepsTablesAndGenerator := by
  intro s t hregs htables hgenerator h
  refine (step_keeps (I := fun s => s.registersOk = true ∧ s.TablesOk ∧ s.GeneratorOk) ?_ ?_ ?_ ?_
    ⟨hregs, htables, hgenerator⟩ h).2
  · exact fun s p ⟨hregs, htables, hgenerator⟩ => ⟨hregs, { htables with }, hgenerator⟩
  · exact ⟨invariantsHoldAtReset.registers, invariantsHoldAtReset.tables, invariantsHoldAtReset.generator⟩
  · exact fun k s ⟨hregs, htables, hgenerator⟩ => ⟨registersOk_raiseFault k hregs, { htables with }, hgenerator⟩
  · exact fun i s hi hpass ⟨hregs, h⟩ =>
      ⟨registersOk_effectOf hi hpass hregs, tablesAndGenerator_effectOf hi hpass hregs h⟩

end Sys2Proof.Machine
end

section
/-! MATV keeps its meaning (rules R15, R26, R126): MBUILD leaves the same skeleton in the square over whatever MAT held,
and PLACE, MASK and FMT change a cell only as its class allows. -/

namespace Sys2Proof.Machine

open Sys2Proof.Claim

variable {s t : State}

/-! ### MBUILD -/

/-- Two matrices agree on the n × n square. -/
def AgreeOnSquare (n : Nat) (m m' : Memory MCell) : Prop :=
  ∀ r c, r < n → c < n → cellAt m r c = cellAt m' r c

/-- Writing the same cell into both keeps them alike. -/
theorem AgreeOnSquare.putCell {n : Nat} {m m' : Memory MCell} (h : AgreeOnSquare n m m') (r c : Nat) (x : MCell) :
    AgreeOnSquare n (putCell m r c x) (putCell m' r c x) := by
  intro r' c' hr' hc'
  rw [cellAt_putCell, cellAt_putCell, h r' c' hr' hc']

/-- Claiming a cell of the square writes into both or into neither. -/
theorem AgreeOnSquare.claimCell {n r c : Nat} {m m' : Memory MCell} (h : AgreeOnSquare n m m') (hr : r < n) (hc : c < n)
    (x : MCell) : AgreeOnSquare n (claimCell m r c x) (claimCell m' r c x) := by
  unfold Machine.claimCell
  rw [h r c hr hc]
  split
  · exact h.putCell r c x
  · exact h

/-- Step 1 of rule R126 on every cell of the square. -/
theorem cellAt_clearSquare {n r c : Nat} (mat : Memory MCell) (hr : r < n) (hc : c < n) :
    cellAt (clearSquare n mat) r c = ⟨.U, false⟩ := by
  have hloop : clearSquare n mat =
      ((square n).map (fun p => cellIndex p.1 p.2)).foldl (fun m i => Memory.write m i ⟨.U, false⟩) mat := by
    rw [clearSquare, List.foldl_map]
    rfl
  have hmem : cellIndex r c ∈ (square n).map (fun p => cellIndex p.1 p.2) :=
    List.mem_map.2 ⟨(r, c), mem_square.2 ⟨hr, hc⟩, rfl⟩
  rw [cellAt, hloop, Memory.read_foldl_write _ (fun _ => (⟨.U, false⟩ : MCell)), if_pos hmem]

theorem AgreeOnSquare.clearSquare (n : Nat) (m m' : Memory MCell) :
    AgreeOnSquare n (clearSquare n m) (clearSquare n m') := fun r c hr hc => by
  rw [cellAt_clearSquare m hr hc, cellAt_clearSquare m' hr hc]

theorem AgreeOnSquare.stampFinder {n : Nat} {m m' : Memory MCell} (h : AgreeOnSquare n m m') (r c : Nat) :
    AgreeOnSquare n (stampFinder n r c m) (stampFinder n r c m') := by
  refine List.foldl_rel h fun d _ m m' h => ?_
  dsimp only
  split
  · exact h.putCell _ _ _
  · exact h

theorem AgreeOnSquare.stampTiming {n : Nat} {m m' : Memory MCell} (hn : 6 < n) (h : AgreeOnSquare n m m') :
    AgreeOnSquare n (stampTiming n m) (stampTiming n m') := by
  refine List.foldl_rel h fun i hi m m' h => ?_
  have hi := List.mem_range.1 hi
  exact (h.claimCell hn hi _).claimCell hi hn _

theorem AgreeOnSquare.stampAlign {n : Nat} {m m' : Memory MCell} (h : AgreeOnSquare n m m') (r c : Nat) :
    AgreeOnSquare n (stampAlign n r c m) (stampAlign n r c m') := by
  refine List.foldl_rel h fun d _ m m' h => ?_
  dsimp only
  split
  · next hgrid =>
    simp only [Int.ofNat_eq_natCast] at hgrid ⊢
    exact h.claimCell (by omega) (by omega) _
  · exact h

/-- The format cells lie in the square (rules R132, R157). -/
theorem formatCells_lt {n : Nat} (hn : 17 ≤ n) {e : Nat × (Nat × Nat)} (he : e ∈ formatCells n) :
    e.2.1 < n ∧ e.2.2 < n := by
  simp only [formatCells, List.mem_flatMap, mem_upTo, List.mem_cons, List.not_mem_nil, or_false] at he
  obtain ⟨i, ⟨-, hi⟩, rfl | rfl⟩ := he
  · unfold formatPos1
    split_ifs <;> constructor <;> dsimp only <;> omega
  · unfold formatPos2
    split_ifs <;> constructor <;> dsimp only <;> omega

theorem AgreeOnSquare.reserveFormat {n : Nat} {m m' : Memory MCell} (hn : 17 ≤ n) (h : AgreeOnSquare n m m') :
    AgreeOnSquare n (reserveFormat n m) (reserveFormat n m') := by
  refine List.foldl_rel h fun e he m m' h => ?_
  obtain ⟨hr, hc⟩ := formatCells_lt hn he
  exact h.claimCell hr hc _

/-- The skeleton of a version does not depend on what MAT held (rule R126). -/
theorem AgreeOnSquare.buildSkeleton (P : Params) (v : Nat) (m m' : Memory MCell) :
    AgreeOnSquare (side v) (buildSkeleton P v m) (buildSkeleton P v m') := by
  have hn : 17 ≤ side v := Nat.le_add_right 17 _
  have hstamped := ((((AgreeOnSquare.clearSquare (side v) m m').stampFinder 0 0).stampFinder 0 (side v - 7)).stampFinder
    (side v - 7) 0).stampTiming (by omega)
  have hdark := hstamped.putCell (side v - 8) 8 ⟨.S, true⟩
  unfold Machine.buildSkeleton
  dsimp only
  refine AgreeOnSquare.reserveFormat hn ?_
  split
  · exact hdark.stampAlign _ _
  · exact hdark

@[simp] theorem mbuildEffect_mat (P : Params) (s : State) :
    (mbuildEffect P s).mat = buildSkeleton P s.ver.toNat s.mat := by simp only [mbuildEffect]

@[simp] theorem mbuildEffect_ver (P : Params) (s : State) : (mbuildEffect P s).ver = s.ver := rfl

theorem matrixOk_mbuildEffect (s : State) : (mbuildEffect params s).MatrixOk := by
  intro _ r c hr hc
  rw [mbuildEffect_mat, mbuildEffect_ver, AgreeOnSquare.buildSkeleton params s.ver.toNat s.mat [] r c hr hc]
  exact (buildSkeleton_cells params s.ver.toNat (fun _ => .inl rfl) (cellIndex r c)).evolves

/-! ### PLACE, MASK and FMT, cell by cell -/

variable {before : MCell} {mat : Memory MCell} {r c : Nat}

/-- An unset cell that becomes a data cell, a data cell that stays one, a reserved or filled cell that is filled (rule
R26). -/
theorem evolvesTo_data {x : MCell} (h : evolvesTo before x = true) (hx : x.cls = .U ∨ x.cls = .D) (v : Bool) :
    evolvesTo before ⟨.D, v⟩ = true := by
  obtain ⟨cls, val⟩ := before
  cases cls with
  | U => rfl
  | S =>
    obtain rfl : x = ⟨.S, val⟩ := by simpa [evolvesTo] using h
    simp at hx
  | R =>
    obtain rfl | hF : x = ⟨.R, false⟩ ∨ x.cls = .F := by simpa [evolvesTo] using h
    · simp at hx
    · simp [hF] at hx
  | D => cases h
  | F => cases h

theorem evolvesTo_format {x : MCell} (h : evolvesTo before x = true) (hx : x.cls = .R ∨ x.cls = .F) (v : Bool) :
    evolvesTo before ⟨.F, v⟩ = true := by
  obtain ⟨cls, val⟩ := before
  cases cls with
  | U =>
    obtain rfl | hD : x = ⟨.U, false⟩ ∨ x.cls = .D := by simpa [evolvesTo] using h
    · simp at hx
    · simp [hD] at hx
  | S =>
    obtain rfl : x = ⟨.S, val⟩ := by simpa [evolvesTo] using h
    simp at hx
  | R => rfl
  | D => cases h
  | F => cases h

/-- Writing one cell keeps every cell's history allowed, if it does so for the cell written. -/
theorem evolvesTo_putCell {p q : Nat} {x : MCell} (h : evolvesTo before (cellAt mat r c) = true)
    (hx : evolvesTo before (cellAt mat p q) = true → evolvesTo before x = true) :
    evolvesTo before (cellAt (putCell mat p q x) r c) = true := by
  rw [cellAt_putCell]
  split
  · next hindex =>
    rw [cellAt, hindex] at h
    exact hx h
  · exact h

theorem evolvesTo_placeCell (cw : Memory Byte) (T : Nat) {acc : Memory MCell × Nat} (p : Nat × Nat)
    (h : evolvesTo before (cellAt acc.1 r c) = true) :
    evolvesTo before (cellAt (placeCell cw T acc p).1 r c) = true := by
  unfold placeCell
  split
  · next hU => exact evolvesTo_putCell h fun h => evolvesTo_data h (.inl hU) _
  · exact h

theorem evolvesTo_maskCell (p : Nat × Nat) (h : evolvesTo before (cellAt mat r c) = true) :
    evolvesTo before (cellAt (maskCell mat p) r c) = true := by
  unfold maskCell
  dsimp only
  split
  · next hD => exact evolvesTo_putCell h fun h => evolvesTo_data h (.inr hD.1) _
  · exact h

theorem evolvesTo_fillFormatCell (P : Params) (e : Nat × (Nat × Nat)) (h : evolvesTo before (cellAt mat r c) = true) :
    evolvesTo before (cellAt (fillFormatCell P mat e) r c) = true := by
  unfold fillFormatCell
  dsimp only
  split
  · next hR => exact evolvesTo_putCell h fun h => evolvesTo_format h hR _
  · exact h

/-- With the same version, MATV keeps its meaning when every cell's history stays allowed. -/
theorem State.MatrixOk.of_evolves (h : s.MatrixOk) (hver : t.ver = s.ver) (hmatv : t.matv = s.matv)
    (hcells : ∀ before r c, evolvesTo before (cellAt s.mat r c) = true → evolvesTo before (cellAt t.mat r c) = true) :
    t.MatrixOk := by
  intro hm r c hr hc
  rw [State.size, hver] at hr hc
  rw [hver]
  exact hcells _ r c (h (hmatv ▸ hm) r c hr hc)

theorem matrixOk_placeEffect (P : Params) (h : s.MatrixOk) : (placeEffect P s).MatrixOk := by
  refine h.of_evolves rfl rfl fun before r c hcell => ?_
  simp only [placeEffect, placeBits]
  exact List.foldlRecOn (motive := fun acc => evolvesTo before (cellAt (Prod.fst acc) r c) = true) _ _ hcell
    fun _ hacc p _ => evolvesTo_placeCell _ _ p hacc

theorem matrixOk_maskEffect (h : s.MatrixOk) : (maskEffect s).MatrixOk := by
  refine h.of_evolves rfl rfl fun before r c hcell => ?_
  simp only [maskEffect]
  exact List.foldlRecOn (motive := fun mat => evolvesTo before (cellAt mat r c) = true) _ _ hcell
    fun _ hmat p _ => evolvesTo_maskCell p hmat

theorem matrixOk_fmtEffect (P : Params) (h : s.MatrixOk) : (fmtEffect P s).MatrixOk := by
  refine h.of_evolves (by simp only [fmtEffect]) (by simp only [fmtEffect]) fun before r c hcell => ?_
  simp only [fmtEffect]
  exact List.foldlRecOn (motive := fun mat => evolvesTo before (cellAt mat r c) = true) _ _ hcell
    fun _ hmat e _ => evolvesTo_fillFormatCell P e hmat

/-! ### Every effect and every step -/

theorem matrixOk_effectOf {i : Instr} (hi : i ≠ .reset) (h : s.MatrixOk) : (effectOf i s).MatrixOk := by
  cases i with
  | reset => exact absurd rfl hi
  | encode => exact matrixOk_fmtEffect _ (matrixOk_maskEffect (matrixOk_placeEffect _ (matrixOk_mbuildEffect _)))
  | rsenc =>
    obtain ⟨_, _, _, hframe⟩ := rsencEffect_frame params s
    rw [effectOf, hframe]
    exact h
  | vsel => exact fun hm => absurd hm Bool.false_ne_true
  | setver b => exact fun hm => absurd hm Bool.false_ne_true
  | mbuild => exact matrixOk_mbuildEffect s
  | wnext =>
    obtain ⟨_, _, _, _, _, _, _, hframe⟩ := wnextEffect_frame s
    rw [effectOf, hframe]
    exact h
  | place => exact matrixOk_placeEffect params h
  | mask => exact matrixOk_maskEffect h
  | fmt => exact matrixOk_fmtEffect params h
  | _ => exact h

/-- Settles O58: MBUILD establishes the meaning, PLACE, MASK and FMT make allowed changes only, VSEL and SETVER clear
MATV, and no other command writes MAT or VER. -/
theorem stepKeepsTheMatrix : Obligations.StepKeepsTheMatrix := fun _ _ _ hs h =>
  step_keeps (I := State.MatrixOk) (fun _ _ h => h) invariantsHoldAtReset.matrix (fun _ _ h => h)
    (fun _ _ hi _ h => matrixOk_effectOf hi h) hs h

end Sys2Proof.Machine
end

section
/-! Every store stays in canonical form and within its depth (rules R40, R46), and LOG[0] is never written (rule R20):
every write of every command names an index its store has. The canonical form is the model's own choice (log entry
4). -/

namespace Sys2Proof

/-- P4 of rule R7: the data and the check bytes of a version fit into CW. -/
theorem Params.data_add_ecc_le {P : Params} (hP : P.ok = true) {v : Nat} (h1 : 1 ≤ v) (h10 : v ≤ 10) :
    P.data v + P.ecc v ≤ Config.cwDepth := by
  simp only [Params.ok, Bool.and_eq_true] at hP
  obtain ⟨⟨⟨⟨-, -⟩, -⟩, hcounts⟩, -⟩ := hP
  simp only [Params.counts, List.all_eq_true, decide_eq_true_eq] at hcounts
  obtain ⟨-, -, -, htotal, hdepth⟩ := hcounts v (List.mem_range'_1.2 ⟨h1, by omega⟩)
  exact htotal ▸ hdepth

namespace Machine

open Sys2Proof.Claim

variable {s : State}

/-! ### A store that lists legal indices only -/

section
variable {α : Type} [Inhabited α] [DecidableEq α] {legal : Nat → Prop} {m : Memory α}

/-- A canonical store whose every listed index is legal. -/
structure Memory.Fits (legal : Nat → Prop) (m : Memory α) : Prop where
  wf : Memory.wf m = true
  legal : ∀ e ∈ m, legal e.1

theorem Memory.fits_lt_iff {depth : Nat} :
    Memory.Fits (· < depth) m ↔ Memory.wf m = true ∧ Memory.within depth m = true := by
  simp only [Memory.within, List.all_eq_true, decide_eq_true_eq]
  exact ⟨fun ⟨hwf, hlt⟩ => ⟨hwf, hlt⟩, fun ⟨hwf, hlt⟩ => ⟨hwf, hlt⟩⟩

theorem Memory.Fits.write (h : Memory.Fits legal m) {i : Nat} (hi : legal i) (v : α) :
    Memory.Fits legal (Memory.write m i v) where
  wf := Memory.write_wf h.wf i v
  legal e he := by
    obtain he | ⟨rfl, -⟩ := Memory.mem_write he
    · exact h.legal e he
    · exact hi

/-- A loop of writes, each at a legal index. -/
theorem Memory.Fits.foldl_write {β : Type} (h : Memory.Fits legal m) (l : List β) (g : β → Nat)
    (f : Memory α → β → α) (hg : ∀ b ∈ l, legal (g b)) :
    Memory.Fits legal (l.foldl (fun m b => Memory.write m (g b) (f m b)) m) :=
  List.foldlRecOn _ _ h fun _ hm b hb => hm.write (hg b hb) _

end

/-! ### The stores of a state -/

/-- MAT lists cells of the 57 × 57 grid only (rules R25, R40). -/
abbrev MatFits (mat : Memory MCell) : Prop := Memory.Fits (· < Config.matDim * Config.matDim) mat

/-- `storesOk`, store by store; the indices of LOG start at 1 (rule R20). -/
structure State.StoresFit (s : State) : Prop where
  exp : Memory.Fits (· < Config.expDepth) s.exp
  log : Memory.Fits (fun i => 1 ≤ i ∧ i < Config.logDepth) s.log
  gen : Memory.Fits (· < Config.genDepth) s.gen
  reg : Memory.Fits (· < Config.regDepth) s.reg
  pay : Memory.Fits (· < Config.payDepth) s.pay
  cw : Memory.Fits (· < Config.cwDepth) s.cw
  mat : MatFits s.mat

/-- LOG within its depth and without an entry at 0, as `storesOk` tests it. -/
theorem log_fits_iff {log : Memory Byte} :
    Memory.Fits (fun i => 1 ≤ i ∧ i < Config.logDepth) log ↔
      Memory.Fits (· < Config.logDepth) log ∧ log.all (fun e => !(e.1 == 0)) = true := by
  simp only [List.all_eq_true, Bool.not_eq_true', beq_eq_false_iff_ne]
  constructor
  · rintro ⟨hwf, hlegal⟩
    exact ⟨⟨hwf, fun e he => (hlegal e he).2⟩, fun e he => Nat.one_le_iff_ne_zero.1 (hlegal e he).1⟩
  · rintro ⟨⟨hwf, hlt⟩, hne⟩
    exact ⟨hwf, fun e he => ⟨Nat.one_le_iff_ne_zero.2 (hne e he), hlt e he⟩⟩

theorem storesOk_iff : s.storesOk = true ↔ s.StoresFit := by
  simp only [State.storesOk, Bool.and_eq_true, ← Memory.fits_lt_iff, ← log_fits_iff]
  constructor
  · rintro ⟨⟨⟨⟨⟨⟨hexp, hlog⟩, hgen⟩, hreg⟩, hpay⟩, hcw⟩, hmat⟩
    exact ⟨hexp, hlog, hgen, hreg, hpay, hcw, hmat⟩
  · rintro ⟨hexp, hlog, hgen, hreg, hpay, hcw, hmat⟩
    exact ⟨⟨⟨⟨⟨⟨hexp, hlog⟩, hgen⟩, hreg⟩, hpay⟩, hcw⟩, hmat⟩

/-! ### The field engine -/

/-- The two loops of rule R81 as loops of writes of the powers of 2. -/
theorem buildTables_eq_powers (exp log : Memory Byte) :
    buildTables exp log =
      (mirrorTable ((List.range 255).foldl (fun e i => Memory.write e i (power i)) exp),
        (List.range 255).foldl (fun l i => Memory.write l (power i).toNat (BitVec.ofNat 8 i)) log) := by
  have hrange : upTo 0 254 = List.range 255 := by rw [upTo, List.range_eq_range']
  simp only [buildTables, hrange, foldl_tableTurn]

theorem exp_fits_buildTables {exp : Memory Byte} (log : Memory Byte) (h : Memory.Fits (· < Config.expDepth) exp) :
    Memory.Fits (· < Config.expDepth) (buildTables exp log).1 := by
  simp only [buildTables_eq_powers, mirrorTable]
  refine (h.foldl_write _ _ _ fun i hi => ?_).foldl_write _ _ _ fun i hi => Nat.lt_succ_of_le (mem_upTo.1 hi).2
  exact (List.mem_range.1 hi).trans (by decide)

/-- LOG is written at the powers of 2, and zero is none of them (rules R20, R81). -/
theorem log_fits_buildTables (exp : Memory Byte) {log : Memory Byte}
    (h : Memory.Fits (fun i => 1 ≤ i ∧ i < Config.logDepth) log) :
    Memory.Fits (fun i => 1 ≤ i ∧ i < Config.logDepth) (buildTables exp log).2 := by
  simp only [buildTables_eq_powers]
  refine h.foldl_write _ _ _ fun i hi => ⟨Nat.one_le_iff_ne_zero.2 fun hzero => ?_, (power i).isLt⟩
  exact power_ne_zero (List.mem_range.1 hi).le (BitVec.eq_of_toNat_eq hzero)

theorem storesFit_gfinitEffect (h : s.StoresFit) : (gfinitEffect s).StoresFit :=
  { h with
    exp := (gfinitEffect_exp s).symm ▸ exp_fits_buildTables s.log h.exp
    log := (gfinitEffect_log s).symm ▸ log_fits_buildTables s.exp h.log }

/-! ### The Reed-Solomon unit -/

/-- RSGEN n writes GEN[0..n] (rule R91). -/
theorem gen_fits_buildGenerator (exp log : Memory Byte) {n : Nat} (hn : n ≤ 255) {gen : Memory Byte}
    (h : Memory.Fits (· < Config.genDepth) gen) :
    Memory.Fits (· < Config.genDepth) (buildGenerator exp log n gen) := by
  have hdepth : ∀ j, j ≤ n → j < Config.genDepth := fun j hj => Nat.lt_succ_of_le (hj.trans hn)
  have hstart : Memory.Fits (· < Config.genDepth) (startGenerator n gen) :=
    (h.write (hdepth 0 (Nat.zero_le n)) _).foldl_write _ _ _ fun j hj => hdepth j (mem_upTo.1 hj).2
  refine List.foldlRecOn _ _ hstart fun g hg i hi => hg.foldl_write _ _ _ fun j hj => hdepth j ?_
  exact (mem_downTo.1 hj).2.trans (List.mem_range.1 hi)

theorem storesFit_rsgenEffect {n : Nat} (hn : n ≤ 255) (h : s.StoresFit) : (rsgenEffect n s).StoresFit :=
  { h with gen := gen_fits_buildGenerator s.exp s.log hn h.gen }

/-- GENN has 8 bits, so an index below it is an index of REG (rules R12, R22). -/
theorem lt_regDepth_of_lt_genn {j : Nat} (hj : j < s.genn.toNat) : j < Config.regDepth :=
  Nat.lt_of_lt_of_le hj (Nat.le_of_lt_succ s.genn.isLt)

theorem storesFit_rsclrEffect (h : s.StoresFit) : (rsclrEffect s).StoresFit :=
  { h with reg := h.reg.foldl_write _ _ _ fun _ hj => lt_regDepth_of_lt_genn (List.mem_range.1 hj) }

theorem reg_fits_shiftRegister {n : Nat} (hn : n ≤ Config.regDepth) {reg : Memory Byte}
    (h : Memory.Fits (· < Config.regDepth) reg) : Memory.Fits (· < Config.regDepth) (shiftRegister n reg) := by
  have hlast : n - 1 < Config.regDepth := by
    rw [Config.regDepth] at hn ⊢
    omega
  exact (h.foldl_write _ _ _ fun j hj => (List.mem_range.1 hj).trans hlast).write hlast _

theorem reg_fits_divisionStep (exp log gen : Memory Byte) {n : Nat} (hn : n ≤ Config.regDepth) {reg : Memory Byte}
    (d : Byte) (h : Memory.Fits (· < Config.regDepth) reg) :
    Memory.Fits (· < Config.regDepth) (divisionStep exp log gen n reg d) := by
  have hshift := reg_fits_shiftRegister hn h
  unfold divisionStep
  dsimp only
  split
  · exact hshift
  · exact hshift.foldl_write _ _ _ fun j hj => (List.mem_range.1 hj).trans_le hn

theorem storesFit_rsstepEffect (d : Byte) (h : s.StoresFit) : (rsstepEffect d s).StoresFit :=
  { h with reg := reg_fits_divisionStep s.exp s.log s.gen (Nat.le_of_lt_succ s.genn.isLt) d h.reg }

theorem storesFit_feedData (k : Nat) (h : s.StoresFit) : (feedData k s).StoresFit :=
  List.foldlRecOn _ _ h fun _ hs _ _ => storesFit_rsstepEffect _ hs

theorem storesFit_storeCheckBytes {n k : Nat} (hk : k + n ≤ Config.cwDepth) (h : s.StoresFit) :
    (storeCheckBytes n k s).StoresFit :=
  { h with cw := h.cw.foldl_write _ _ _ fun _ hj => (Nat.add_lt_add_left (List.mem_range.1 hj) k).trans_le hk }

theorem storesFit_rsencEffect (h1 : 1 ≤ s.ver.toNat) (h10 : s.ver.toNat ≤ 10) (h : s.StoresFit) :
    (rsencEffect params s).StoresFit :=
  storesFit_storeCheckBytes (Params.data_add_ecc_le params_ok h1 h10)
    (storesFit_feedData _ (storesFit_rsclrEffect (storesFit_rsgenEffect (Params.ecc_bounds params_ok h1 h10).2 h)))

/-! ### The packer -/

theorem storesFit_vselEffect (P : Params) (h : s.StoresFit) : (vselEffect P s).StoresFit := { h with }

/-- PACK writes the data segment only (rule R113). -/
theorem storesFit_packEffect (h1 : 1 ≤ s.ver.toNat) (h10 : s.ver.toNat ≤ 10) (h : s.StoresFit) :
    (packEffect params s).StoresFit := by
  have hdata : params.data s.ver.toNat ≤ Config.cwDepth :=
    (Nat.le_add_right _ _).trans (Params.data_add_ecc_le params_ok h1 h10)
  exact { h with cw := h.cw.foldl_write _ _ _ fun _ hk => (List.mem_range.1 hk).trans_le hdata }

/-! ### Cells of a symbol -/

section
variable {n r c : Nat} {mat : Memory MCell}

/-- A cell of a symbol of side up to 57 lies in MAT (rules R25, R40). -/
theorem cellIndex_lt (hn : n ≤ Config.matDim) (hr : r < n) (hc : c < n) :
    cellIndex r c < Config.matDim * Config.matDim := by
  simp only [cellIndex, Config.matDim] at hn ⊢
  omega

theorem MatFits.putCell (h : MatFits mat) (hn : n ≤ Config.matDim) (hr : r < n) (hc : c < n) (x : MCell) :
    MatFits (putCell mat r c x) :=
  h.write (cellIndex_lt hn hr hc) x

theorem MatFits.claimCell (h : MatFits mat) (hn : n ≤ Config.matDim) (hr : r < n) (hc : c < n) (x : MCell) :
    MatFits (claimCell mat r c x) := by
  unfold Machine.claimCell
  split
  · exact h.putCell hn hr hc x
  · exact h

/-! ### MBUILD -/

theorem MatFits.clearSquare (h : MatFits mat) (hn : n ≤ Config.matDim) : MatFits (clearSquare n mat) :=
  List.foldlRecOn _ _ h fun _ hm _ hp => hm.putCell hn (mem_square.1 hp).1 (mem_square.1 hp).2 _

/-- A stamp is clipped to the grid: what it puts lies in the symbol (rules R128, R131). -/
theorem MatFits.of_clipped {r c : Int} {mat' : Memory MCell} (h : MatFits mat)
    (hput : r.toNat < n → c.toNat < n → MatFits mat') :
    MatFits (if 0 ≤ r ∧ r < Int.ofNat n ∧ 0 ≤ c ∧ c < Int.ofNat n then mat' else mat) := by
  split
  · next hgrid =>
    simp only [Int.ofNat_eq_natCast] at hgrid
    exact hput (by omega) (by omega)
  · exact h

theorem MatFits.stampFinder (h : MatFits mat) (hn : n ≤ Config.matDim) (r c : Nat) :
    MatFits (stampFinder n r c mat) :=
  List.foldlRecOn _ _ h fun _ hm _ _ => hm.of_clipped fun hr hc => hm.putCell hn hr hc _

theorem MatFits.stampAlign (h : MatFits mat) (hn : n ≤ Config.matDim) (r c : Nat) :
    MatFits (stampAlign n r c mat) :=
  List.foldlRecOn _ _ h fun _ hm _ _ => hm.of_clipped fun hr hc => hm.claimCell hn hr hc _

theorem MatFits.stampTiming (h : MatFits mat) (hn : n ≤ Config.matDim) (h6 : 6 < n) :
    MatFits (stampTiming n mat) :=
  List.foldlRecOn _ _ h fun _ hm _ hi =>
    (hm.claimCell hn h6 (List.mem_range.1 hi) _).claimCell hn (List.mem_range.1 hi) h6 _

theorem MatFits.reserveFormat (h : MatFits mat) (hn : n ≤ Config.matDim) (h17 : 17 ≤ n) :
    MatFits (reserveFormat n mat) :=
  List.foldlRecOn _ _ h fun _ hm _ he => hm.claimCell hn (formatCells_lt h17 he).1 (formatCells_lt h17 he).2 _

/-- The steps of rule R126 one after the other. -/
theorem MatFits.buildSkeleton (P : Params) {v : Nat} (hv : v ≤ 10) (h : MatFits mat) :
    MatFits (buildSkeleton P v mat) := by
  have h17 : 17 ≤ side v := Nat.le_add_right 17 _
  have h57 : side v ≤ Config.matDim := by
    rw [side, Config.matDim]
    omega
  have hfinders := (((h.clearSquare h57).stampFinder h57 0 0).stampFinder h57 0 (side v - 7)).stampFinder h57
    (side v - 7) 0
  have hdark := (hfinders.stampTiming h57 (by omega)).putCell (r := side v - 8) (c := 8) h57 (by omega) (by omega)
    ⟨.S, true⟩
  unfold Machine.buildSkeleton
  dsimp only
  refine MatFits.reserveFormat ?_ h57 h17
  split
  · exact hdark.stampAlign h57 _ _
  · exact hdark

/-! ### PLACE -/

theorem pairCells_lt {right : Nat} {up : Bool} {p : Nat × Nat} (hright : right < n) (hp : p ∈ pairCells n right up) :
    p.1 < n ∧ p.2 < n := by
  obtain ⟨i, hi, hp⟩ := List.mem_flatMap.1 hp
  have hi := List.mem_range.1 hi
  have hrow : (if up then n - 1 - i else i) < n := by split <;> omega
  obtain rfl | rfl : p = (_, right) ∨ p = (_, right - 1) := by simpa using hp
  · exact ⟨hrow, hright⟩
  · exact ⟨hrow, (Nat.sub_le _ _).trans_lt hright⟩

theorem skipTiming_le (right : Nat) : skipTiming right ≤ right := by
  unfold skipTiming
  split <;> omega

/-- The traversal never leaves the symbol: its column only falls (rule R141). -/
theorem walkFrom_lt {fuel right : Nat} {up : Bool} {p : Nat × Nat} (hright : right < n)
    (hp : p ∈ walkFrom n fuel right up) : p.1 < n ∧ p.2 < n := by
  induction fuel generalizing right up with
  | zero => cases hp
  | succ fuel ih =>
    have hskip := skipTiming_le right
    rw [walkFrom] at hp
    split at hp
    · cases hp
    · obtain hp | hp := List.mem_append.1 hp
      · exact pairCells_lt (by omega) hp
      · exact ih (by omega) hp

theorem walk_lt (hn : 0 < n) {p : Nat × Nat} (hp : p ∈ walk n) : p.1 < n ∧ p.2 < n :=
  walkFrom_lt (Nat.sub_lt hn Nat.one_pos) hp

theorem MatFits.placeBits (h : MatFits mat) (hn : n ≤ Config.matDim) (h0 : 0 < n) (cw : Memory Byte) (T : Nat) :
    MatFits (placeBits cw T n mat) := by
  refine List.foldlRecOn (motive := fun acc => MatFits (Prod.fst acc)) _ _ h fun acc hm p hp => ?_
  obtain ⟨hr, hc⟩ := walk_lt h0 hp
  unfold placeCell
  split
  · exact hm.putCell hn hr hc _
  · exact hm

/-! ### MASK and FMT -/

theorem MatFits.maskCell (h : MatFits mat) (hn : n ≤ Config.matDim) {p : Nat × Nat} (hp : p ∈ square n) :
    MatFits (maskCell mat p) := by
  obtain ⟨hr, hc⟩ := mem_square.1 hp
  unfold Machine.maskCell
  dsimp only
  split
  · exact h.putCell hn hr hc _
  · exact h

theorem MatFits.fillFormatCell (P : Params) (h : MatFits mat) (hn : n ≤ Config.matDim) (h17 : 17 ≤ n)
    {e : Nat × (Nat × Nat)} (he : e ∈ formatCells n) : MatFits (fillFormatCell P mat e) := by
  obtain ⟨hr, hc⟩ := formatCells_lt h17 he
  unfold Machine.fillFormatCell
  dsimp only
  split
  · exact h.putCell hn hr hc _
  · exact h

end

/-! ### The matrix units -/

/-- A version up to 10 has a symbol that MAT holds (rules R5, R25). -/
theorem size_bounds (h10 : s.ver.toNat ≤ 10) : 17 ≤ s.size ∧ s.size ≤ Config.matDim := by
  simp only [State.size, side, Config.matDim]
  omega

@[simp] theorem placeEffect_mat (P : Params) (s : State) :
    (placeEffect P s).mat = placeBits s.cw (8 * P.total s.ver.toNat) s.size s.mat := by simp only [placeEffect]

@[simp] theorem fmtEffect_mat (P : Params) (s : State) :
    (fmtEffect P s).mat = (formatCells s.size).foldl (fillFormatCell P) s.mat := by simp only [fmtEffect]

theorem storesFit_mbuildEffect (h10 : s.ver.toNat ≤ 10) (h : s.StoresFit) : (mbuildEffect params s).StoresFit :=
  { h with mat := (mbuildEffect_mat params s).symm ▸ h.mat.buildSkeleton params h10 }

theorem storesFit_placeEffect (h10 : s.ver.toNat ≤ 10) (h : s.StoresFit) : (placeEffect params s).StoresFit := by
  obtain ⟨hlow, hhigh⟩ := size_bounds h10
  exact { h with mat := (placeEffect_mat params s).symm ▸ h.mat.placeBits hhigh (by omega) _ _ }

theorem storesFit_maskEffect (h10 : s.ver.toNat ≤ 10) (h : s.StoresFit) : (maskEffect s).StoresFit := by
  obtain ⟨-, hhigh⟩ := size_bounds h10
  exact { h with mat := List.foldlRecOn _ _ h.mat fun _ hm _ hp => hm.maskCell hhigh hp }

theorem storesFit_fmtEffect (h10 : s.ver.toNat ≤ 10) (h : s.StoresFit) : (fmtEffect params s).StoresFit := by
  obtain ⟨hlow, hhigh⟩ := size_bounds h10
  have hmat : MatFits (fmtEffect params s).mat := by
    rw [fmtEffect_mat]
    exact List.foldlRecOn _ _ h.mat fun _ hm _ he => hm.fillFormatCell params hhigh hlow he
  obtain ⟨_, hframe⟩ := fmtEffect_frame params s
  rw [hframe] at hmat ⊢
  exact { h with mat := hmat }

/-- The matrix units in the order of ENCODE (rule R165): none of them changes VER. -/
theorem storesFit_matrixUnits (h10 : s.ver.toNat ≤ 10) (h : s.StoresFit) :
    (fmtEffect params (maskEffect (placeEffect params (mbuildEffect params s)))).StoresFit :=
  storesFit_fmtEffect h10 (storesFit_maskEffect h10 (storesFit_placeEffect h10 (storesFit_mbuildEffect h10 h)))

/-! ### Every effect and every step -/

theorem ver_le_of_registersOk (h : s.registersOk = true) : s.ver.toNat ≤ 10 := by
  obtain ⟨-, hversion, -⟩ := registersOk_iff.1 h
  exact hversion.ver

theorem one_le_ver_of_registersOk (h : s.registersOk = true) (hv : s.verv = true) : 1 ≤ s.ver.toNat := by
  obtain ⟨-, hversion, -⟩ := registersOk_iff.1 h
  exact hversion.verv.1 hv

/-- ENCODE, unit by unit (rule R165): VSEL selects a version in 1..10, and no later unit changes VER. -/
theorem storesFit_encodeEffect (hregs : s.registersOk = true) (h : s.StoresFit) :
    (encodeEffect params s).StoresFit := by
  have hvsel : (vselEffect params (gfinitEffect s)).registersOk = true :=
    registersOk_vselEffect (s := gfinitEffect s) hregs
  have h1 := one_le_ver_of_registersOk hvsel rfl
  have h10 := ver_le_of_registersOk hvsel
  have hrsenc := storesFit_rsencEffect (s := packEffect params (vselEffect params (gfinitEffect s))) h1 h10
    (storesFit_packEffect h1 h10 (storesFit_vselEffect params (storesFit_gfinitEffect h)))
  have hver : (rsencEffect params (packEffect params (vselEffect params (gfinitEffect s)))).ver.toNat ≤ 10 := by
    obtain ⟨_, _, _, hframe⟩ := rsencEffect_frame params (packEffect params (vselEffect params (gfinitEffect s)))
    rw [hframe]
    exact h10
  exact storesFit_matrixUnits hver hrsenc

theorem Passes.paywr {a : BitVec 10} {b : BitVec 16} (h : Passes (.paywr a b) s) : a.toNat ≤ 511 := by
  simpa [Passes, testsOf, above] using h

theorem Passes.cwwr {a : BitVec 10} {b : BitVec 16} (h : Passes (.cwwr a b) s) : a.toNat ≤ 511 ∧ b.toNat ≤ 255 := by
  simpa [Passes, testsOf, above] using h

theorem Passes.pack (h : Passes .pack s) : s.verv = true ∧ s.len.toNat ≤ params.cap s.ver.toNat := by
  simpa [Passes, testsOf, above] using h

theorem storesFit_effectOf {i : Instr} (hi : i ≠ .reset) (hpass : Passes i s) (hregs : s.registersOk = true)
    (h : s.StoresFit) : (effectOf i s).StoresFit := by
  have h10 := ver_le_of_registersOk hregs
  cases i with
  | reset => exact absurd rfl hi
  | encode => exact storesFit_encodeEffect hregs h
  | gfinit => exact storesFit_gfinitEffect h
  | rsgen b => exact storesFit_rsgenEffect hpass.rsgen.2.2 h
  | rsclr => exact storesFit_rsclrEffect h
  | rsstep b => exact storesFit_rsstepEffect _ h
  | rsenc => exact storesFit_rsencEffect (one_le_ver_of_registersOk hregs hpass.rsenc.2) h10 h
  | paywr a b => exact { h with pay := h.pay.write (Nat.lt_succ_of_le hpass.paywr) b }
  | pack => exact storesFit_packEffect (one_le_ver_of_registersOk hregs hpass.pack.1) h10 h
  | cwwr a b => exact { h with cw := h.cw.write (Nat.lt_succ_of_le hpass.cwwr.1) _ }
  | mbuild => exact storesFit_mbuildEffect h10 h
  | wnext =>
    obtain ⟨_, _, _, _, _, _, _, hframe⟩ := wnextEffect_frame s
    rw [effectOf, hframe]
    exact { h with }
  | place => exact storesFit_placeEffect h10 h
  | mask => exact storesFit_maskEffect h10 h
  | fmt => exact storesFit_fmtEffect h10 h
  | _ => exact { h with }

/-- Settles O56: every index an effect writes is legal by the command's own tests, by the width of GENN, or by the
version being in 1..10, which the agreement of the registers gives. -/
theorem stepKeepsTheStores : Obligations.StepKeepsTheStores := by
  intro s t hregs hstores h
  refine storesOk_iff.2 (step_keeps (I := fun s => s.registersOk = true ∧ s.StoresFit) ?_ ?_ ?_ ?_
    ⟨hregs, storesOk_iff.1 hstores⟩ h).2
  · exact fun s p ⟨hregs, hfit⟩ => ⟨hregs, { hfit with }⟩
  · exact ⟨invariantsHoldAtReset.registers, storesOk_iff.1 invariantsHoldAtReset.stores⟩
  · exact fun k s ⟨hregs, hfit⟩ => ⟨registersOk_raiseFault k hregs, { hfit with }⟩
  · exact fun i s hi hpass ⟨hregs, hfit⟩ =>
      ⟨registersOk_effectOf hi hpass hregs, storesFit_effectOf hi hpass hregs hfit⟩

end Machine
end Sys2Proof
end

section
/-! The encoding (rules R60 to R66): the decoder and the encoder are inverse to each other, and the words they speak of
are those the opcode map selects. -/

namespace Sys2Proof

variable {w : Word} {op op' : BitVec 6} {a a' : BitVec 10} {b b' : BitVec 16} {i j : Instr} {n : Nat}

/-! ### The formats of the decoder -/

@[simp] theorem formatZ_eq_some : formatZ a b i = some j ↔ (a = 0 ∧ b = 0) ∧ i = j := by simp [formatZ]

@[simp] theorem formatA_eq_some : formatA b i = some j ↔ b = 0 ∧ i = j := by simp [formatA]

@[simp] theorem formatB_eq_some : formatB a i = some j ↔ a = 0 ∧ i = j := by simp [formatB]

/-- x and y are all of the field b (rule R62). -/
theorem highByte_append_lowByte (b : BitVec 16) : highByte b ++ lowByte b = b := by
  apply BitVec.eq_of_getLsbD_eq
  intro k hk
  rw [BitVec.getLsbD_append, highByte, lowByte, BitVec.getLsbD_extractLsb', BitVec.getLsbD_extractLsb']
  split
  · next hlow => simp [hlow]
  · next hhigh => simp [show k - 8 < 8 by omega, show 8 + (k - 8) = k by omega]

/-- GFMUL alone holds its field in two parts (rule R62). -/
theorem encode_gfmul_bytes (b : BitVec 16) : encode (.gfmul (highByte b) (lowByte b)) = packWord 0x09 0 b := by
  rw [encode, highByte_append_lowByte]

/-! ### Decoding and encoding are inverse -/

/-- Settles O1: the round trip of each command. -/
theorem decodeOfEncodeIsTheCommand : Obligations.DecodeOfEncodeIsTheCommand := by
  intro i
  cases i with
  | nop => exact Laws.RoundTrip.nop
  | reset => exact Laws.RoundTrip.reset
  | rdreg a => exact Laws.RoundTrip.rdreg a
  | encode => exact Laws.RoundTrip.encode
  | gfinit => exact Laws.RoundTrip.gfinit
  | gfmul x y => exact Laws.RoundTrip.gfmul x y
  | gfexp b => exact Laws.RoundTrip.gfexp b
  | gflog b => exact Laws.RoundTrip.gflog b
  | rsgen b => exact Laws.RoundTrip.rsgen b
  | rsclr => exact Laws.RoundTrip.rsclr
  | rsstep b => exact Laws.RoundTrip.rsstep b
  | rsrd a => exact Laws.RoundTrip.rsrd a
  | genrd a => exact Laws.RoundTrip.genrd a
  | rsenc => exact Laws.RoundTrip.rsenc
  | paywr a b => exact Laws.RoundTrip.paywr a b
  | setlen b => exact Laws.RoundTrip.setlen b
  | vsel => exact Laws.RoundTrip.vsel
  | setver b => exact Laws.RoundTrip.setver b
  | pack => exact Laws.RoundTrip.pack
  | cwrd a => exact Laws.RoundTrip.cwrd a
  | cwwr a b => exact Laws.RoundTrip.cwwr a b
  | payrd a => exact Laws.RoundTrip.payrd a
  | mbuild => exact Laws.RoundTrip.mbuild
  | mrd a b => exact Laws.RoundTrip.mrd a b
  | winit => exact Laws.RoundTrip.winit
  | wnext => exact Laws.RoundTrip.wnext
  | place => exact Laws.RoundTrip.place
  | mask => exact Laws.RoundTrip.mask
  | fmt => exact Laws.RoundTrip.fmt

/-- A command whose word has the opcode and the fields of `w` has the word `w`. -/
theorem encode_eq_of_fields (hop : (fieldOp w).toNat = n)
    (hi : encode i = packWord (BitVec.ofNat 6 n) (fieldA w) (fieldB w)) : encode i = w := by
  rw [hi, ← hop, BitVec.ofNat_toNat, BitVec.setWidth_eq, packWord_fields]

theorem encode_eq_of_formatZ (hop : (fieldOp w).toNat = n) (hi : encode i = packWord (BitVec.ofNat 6 n) 0 0)
    (h : formatZ (fieldA w) (fieldB w) i = some j) : encode j = w := by
  obtain ⟨⟨ha, hb⟩, rfl⟩ := formatZ_eq_some.1 h
  exact encode_eq_of_fields hop (by rw [hi, ha, hb])

theorem encode_eq_of_formatA (hop : (fieldOp w).toNat = n) (hi : encode i = packWord (BitVec.ofNat 6 n) (fieldA w) 0)
    (h : formatA (fieldB w) i = some j) : encode j = w := by
  obtain ⟨hb, rfl⟩ := formatA_eq_some.1 h
  exact encode_eq_of_fields hop (by rw [hi, hb])

theorem encode_eq_of_formatB (hop : (fieldOp w).toNat = n) (hi : encode i = packWord (BitVec.ofNat 6 n) 0 (fieldB w))
    (h : formatB (fieldA w) i = some j) : encode j = w := by
  obtain ⟨ha, rfl⟩ := formatB_eq_some.1 h
  exact encode_eq_of_fields hop (by rw [hi, ha])

/-- Settles O2: the branch of the decoder fixes the opcode, its format fixes the unused fields, and the command holds the
others. -/
theorem encodeOfDecodeIsTheWord : Obligations.EncodeOfDecodeIsTheWord := by
  intro w i h
  simp only [decode] at h
  split at h
  -- The branches by their format, numbered in the decoder's order; format Z first.
  case h_1 hop | h_2 hop | h_4 hop | h_5 hop | h_10 hop | h_14 hop | h_17 hop | h_19 hop | h_23 hop | h_25 hop |
      h_26 hop | h_27 hop | h_28 hop | h_29 hop => exact encode_eq_of_formatZ hop rfl h
  -- Format A.
  case h_3 hop | h_12 hop | h_13 hop | h_20 hop | h_22 hop => exact encode_eq_of_formatA hop rfl h
  -- Format B.
  case h_6 hop => exact encode_eq_of_formatB hop (encode_gfmul_bytes (fieldB w)) h
  case h_7 hop | h_8 hop | h_9 hop | h_11 hop | h_16 hop | h_18 hop => exact encode_eq_of_formatB hop rfl h
  -- Format AB.
  case h_15 hop | h_21 hop | h_24 hop => cases h; exact encode_eq_of_fields hop rfl
  -- A reserved opcode.
  case h_30 => cases h

/-! ### The opcode map -/

/-- What a format asks of the fields: those it does not use are zero (rule R61). -/
def Format.Admits : Format → BitVec 10 → BitVec 16 → Prop
  | .Z, a, b => a = 0 ∧ b = 0
  | .A, _, b => b = 0
  | .B, a, _ => a = 0
  | .AB, _, _ => True

theorem packWord_and : packWord op a b &&& packWord op' a' b' = packWord (op &&& op') (a &&& a') (b &&& b') :=
  BitVec.and_append.trans (congrArg (· ++ (b &&& b')) BitVec.and_append)

theorem packWord_inj : packWord op a b = packWord op' a' b' ↔ op = op' ∧ a = a' ∧ b = b' := by
  refine ⟨fun h => ⟨?_, ?_, ?_⟩, fun ⟨hop, ha, hb⟩ => by rw [hop, ha, hb]⟩
  · simpa only [fieldOp_packWord] using congrArg fieldOp h
  · simpa only [fieldA_packWord] using congrArg fieldA h
  · simpa only [fieldB_packWord] using congrArg fieldB h

/-- The mask of a format covers the opcode and the fields the format does not use. -/
theorem mask_eq_packWord (f : Format) :
    f.mask = packWord (BitVec.allOnes 6) (if f = .A ∨ f = .AB then 0 else BitVec.allOnes 10)
      (if f = .B ∨ f = .AB then 0 else BitVec.allOnes 16) := by
  cases f <;> rfl

/-- `op << 26` is the word of an opcode with both fields zero. -/
theorem matchBits_eq_packWord (r : OpcodeRow) : r.matchBits = packWord r.op 0 0 := by
  have all : ∀ op : BitVec 6, op.zeroExtend 32 <<< 26 = packWord op 0 0 := by decide
  exact all r.op

/-- A row selects the words with its opcode and the fields its format admits (rule R61). -/
theorem selects_packWord {r : OpcodeRow} : r.selects (packWord op a b) = true ↔ op = r.op ∧ r.format.Admits a b := by
  rw [OpcodeRow.selects, beq_iff_eq, mask_eq_packWord, matchBits_eq_packWord, packWord_and, packWord_inj]
  cases r.format <;> simp [Format.Admits, -BitVec.reduceAllOnes]

theorem wellFormed_packWord :
    Word.wellFormed (packWord op a b) = true ↔ ∃ f, ⟨op, f⟩ ∈ opcodeRows ∧ f.Admits a b := by
  simp only [Word.wellFormed, List.any_eq_true, selects_packWord]
  constructor
  · rintro ⟨⟨_, f⟩, hr, rfl, hf⟩
    exact ⟨f, hr, hf⟩
  · rintro ⟨f, hr, hf⟩
    exact ⟨⟨op, f⟩, hr, rfl, hf⟩

/-- Every command stands in the opcode map. -/
theorem wellFormed_encode (i : Instr) : Word.wellFormed (encode i) = true := by
  cases i with
  | nop | reset | encode | gfinit | rsclr | rsenc | vsel | pack | mbuild | winit | wnext | place | mask | fmt =>
    exact wellFormed_packWord.2 ⟨.Z, by decide, rfl, rfl⟩
  | rdreg | rsrd | genrd | cwrd | payrd => exact wellFormed_packWord.2 ⟨.A, by decide, rfl⟩
  | gfmul | gfexp | gflog | rsgen | rsstep | setlen | setver => exact wellFormed_packWord.2 ⟨.B, by decide, rfl⟩
  | paywr | cwwr | mrd => exact wellFormed_packWord.2 ⟨.AB, by decide, trivial⟩

/-- Every row of the opcode map is a branch of the decoder with the same format. -/
theorem decode_isSome_of_row :
    ∀ r ∈ opcodeRows, r.format.Admits a b → (decode (packWord r.op a b)).isSome = true := by
  simp [opcodeRows, opcodeRowsSystemGf, opcodeRowsRs, opcodeRowsPacker, opcodeRowsMatrix, Format.Admits, decode,
    fieldOp_packWord, fieldA_packWord, fieldB_packWord, formatZ, formatA, formatB]

/-- Settles O3: a decoded word is the word of a command, which some row selects; a row that selects a word is a branch of
the decoder that accepts it. -/
theorem decoderAcceptsExactlyTheTableRows : Obligations.DecoderAcceptsExactlyTheTableRows := by
  intro w
  rw [Bool.eq_iff_iff]
  constructor
  · intro h
    obtain ⟨i, hi⟩ := Option.isSome_iff_exists.1 h
    exact encodeOfDecodeIsTheWord w i hi ▸ wellFormed_encode i
  · intro h
    rw [← packWord_fields w] at h ⊢
    obtain ⟨f, hr, hf⟩ := wellFormed_packWord.1 h
    exact decode_isSome_of_row ⟨fieldOp w, f⟩ hr hf

/-- Settles O4: the decoder evaluated on each word. -/
theorem sampleWordsDecode : Obligations.SampleWordsDecode := by
  unfold Obligations.SampleWordsDecode
  decide

/-! ### Illegal words -/

namespace Machine

theorem step_of_illegal {s : State} {rest : List HostEvent} (hp : s.pending = .command w :: rest)
    (hw : decode w = none) : step s = illegalWord { s with pending := rest } := by
  rw [step_of_command hp, hw]

/-- Settles O6: the step is the answer to an illegal word, which FAULT decides. -/
theorem illegalWordRaisesErrIllegal : Obligations.IllegalWordRaisesErrIllegal := by
  intro s w rest hp hw
  rw [step_of_illegal hp hw]
  exact ⟨fun hs => illegalWord_of_ready hs, fun hs => illegalWord_of_faulted hs⟩

end Machine
end Sys2Proof
end

section
/-! The field GF(2^8) (rule R80): the product of polynomials modulo 0x11D adds up bit by bit in both operands, and
multiplying by a power of 2 is repeated doubling; the laws of the field follow. -/

namespace Sys2Proof.Claim

/-! ### Sums over GF(2) -/

section
variable {w : Nat} (b c : Bool) (p q x : BitVec w)

/-- A summand that stands only where a bit is set. -/
def onlyIf : BitVec w := if b then p else 0#w

theorem ite_xor_eq : (if b then x ^^^ p else x) = x ^^^ onlyIf b p := by cases b <;> simp [onlyIf]

theorem onlyIf_xor_left : onlyIf (b ^^ c) p = onlyIf b p ^^^ onlyIf c p := by cases b <;> cases c <;> simp [onlyIf]

theorem onlyIf_xor_right : onlyIf b (p ^^^ q) = onlyIf b p ^^^ onlyIf b q := by cases b <;> simp [onlyIf]

end

theorem xor_xor_xor_comm {w : Nat} (x y p q : BitVec w) : (x ^^^ y) ^^^ (p ^^^ q) = (x ^^^ p) ^^^ (y ^^^ q) := by
  ac_rfl

/-- Two loops whose turns add up to the turn of a third add up to the third. -/
theorem foldl_xor {w : Nat} {f g h : BitVec w → Nat → BitVec w} (hturn : ∀ x y k, f (x ^^^ y) k = g x k ^^^ h y k)
    (l : List Nat) (x y : BitVec w) : l.foldl f (x ^^^ y) = l.foldl g x ^^^ l.foldl h y :=
  List.foldl_hom₂ l (fun x y : BitVec w => x ^^^ y) g h f x y fun x y k => (hturn x y k).symm

theorem twice_xor (x y : Byte) : twice (x ^^^ y) = twice x ^^^ twice y := by
  simp only [twice, ite_xor_eq, BitVec.getLsbD_xor, BitVec.shiftLeft_xor_distrib, onlyIf_xor_left]
  exact xor_xor_xor_comm _ _ _ _

/-- Every element is the sum of the powers of 2 at its bits. -/
theorem sum_of_powers (b : Byte) :
    (List.range 8).foldl (fun x k => if b.getLsbD k then x ^^^ power k else x) 0 = b := by
  revert b
  decide

/-- Two additive maps that agree on the first eight powers of 2 are equal. -/
theorem eq_of_xor_of_powers {f g : Byte → Byte} (hf : ∀ x y, f (x ^^^ y) = f x ^^^ f y)
    (hg : ∀ x y, g (x ^^^ y) = g x ^^^ g y) (h : ∀ k < 8, f (power k) = g (power k)) (b : Byte) : f b = g b := by
  have hf0 : f 0 = 0 := by simpa using hf 0 0
  have hg0 : g 0 = 0 := by simpa using hg 0 0
  rw [← sum_of_powers b]
  refine List.foldlRecOn (motive := fun x => f x = g x) _ _ (hf0.trans hg0.symm) fun x hx k hk => ?_
  split
  · rw [hf, hg, hx, h k (List.mem_range.1 hk)]
  · exact hx

/-! ### The product adds up in both operands -/

theorem polynomialProduct_xor_left (a a' b : Byte) :
    polynomialProduct (a ^^^ a') b = polynomialProduct a b ^^^ polynomialProduct a' b := by
  simp only [polynomialProduct, ite_xor_eq, BitVec.setWidth_xor, BitVec.shiftLeft_xor_distrib, onlyIf_xor_right]
  exact foldl_xor (fun _ _ _ => xor_xor_xor_comm _ _ _ _) _ 0 0

theorem polynomialProduct_xor_right (a b b' : Byte) :
    polynomialProduct a (b ^^^ b') = polynomialProduct a b ^^^ polynomialProduct a b' := by
  simp only [polynomialProduct, ite_xor_eq, BitVec.getLsbD_xor, onlyIf_xor_left]
  exact foldl_xor (fun _ _ _ => xor_xor_xor_comm _ _ _ _) _ 0 0

theorem modulo11D_xor (x y : BitVec 16) : modulo11D (x ^^^ y) = modulo11D x ^^^ modulo11D y := by
  simp only [modulo11D, ite_xor_eq, ← BitVec.setWidth_xor]
  refine congrArg (BitVec.setWidth 8) (foldl_xor (fun x y k => ?_) _ x y)
  simp only [BitVec.getLsbD_xor, onlyIf_xor_left]
  exact xor_xor_xor_comm _ _ _ _

theorem fieldProduct_xor_left (a a' b : Byte) :
    fieldProduct (a ^^^ a') b = fieldProduct a b ^^^ fieldProduct a' b := by
  simp only [fieldProduct, polynomialProduct_xor_left, modulo11D_xor]

theorem fieldProduct_xor_right (a b b' : Byte) :
    fieldProduct a (b ^^^ b') = fieldProduct a b ^^^ fieldProduct a b' := by
  simp only [fieldProduct, polynomialProduct_xor_right, modulo11D_xor]

@[simp] theorem fieldProduct_zero_left (b : Byte) : fieldProduct 0#8 b = 0#8 := by
  simpa using fieldProduct_xor_left 0 0 b

@[simp] theorem fieldProduct_zero_right (a : Byte) : fieldProduct a 0#8 = 0#8 := by
  simpa using fieldProduct_xor_right a 0 0

/-! ### The product with a power of 2 -/

@[simp] theorem fieldProduct_one_left (b : Byte) : fieldProduct 1 b = b :=
  eq_of_xor_of_powers (g := id) (fieldProduct_xor_right 1) (fun _ _ => rfl) (by decide) b

/-- Doubling an operand doubles the product: both sides add up, so the 8 × 8 pairs of single bits decide. -/
theorem fieldProduct_twice_left (a b : Byte) : fieldProduct (twice a) b = twice (fieldProduct a b) := by
  have hbits : ∀ i < 8, ∀ j < 8,
      fieldProduct (twice (power i)) (power j) = twice (fieldProduct (power i) (power j)) := by decide
  refine eq_of_xor_of_powers (f := fun a => fieldProduct (twice a) b) (g := fun a => twice (fieldProduct a b))
    (fun x y => ?_) (fun x y => ?_) (fun i hi => ?_) a
  · simp only [twice_xor, fieldProduct_xor_left]
  · simp only [twice_xor, fieldProduct_xor_left]
  · refine eq_of_xor_of_powers (g := fun b => twice (fieldProduct (power i) b)) (fieldProduct_xor_right _)
      (fun x y => ?_) (hbits i hi) b
    simp only [twice_xor, fieldProduct_xor_right]

theorem fieldProduct_iterate_twice_left (n : Nat) (a b : Byte) :
    fieldProduct (twice^[n] a) b = twice^[n] (fieldProduct a b) :=
  Function.Semiconj.iterate_right (f := (fieldProduct · b)) (fun a => fieldProduct_twice_left a b) n a

theorem fieldProduct_power_left (n : Nat) (b : Byte) : fieldProduct (power n) b = twice^[n] b := by
  rw [power_eq_iterate, fieldProduct_iterate_twice_left, fieldProduct_one_left]

/-- Powers multiply by adding their exponents. -/
theorem fieldProduct_powers (i j : Nat) : fieldProduct (power i) (power j) = power (i + j) := by
  rw [fieldProduct_power_left, power_eq_iterate j, power_eq_iterate (i + j), Function.iterate_add_apply]

/-- The powers of 2 repeat after 255 (rule R80). -/
theorem power_mod (n : Nat) : power (n % 255) = power n := by
  rw [power_eq_iterate, power_eq_iterate, ← minimalPeriod_twice, Function.iterate_mod_minimalPeriod_eq]

theorem exists_power_of_ne_zero {b : Byte} (hb : b ≠ 0) : ∃ j, j < 255 ∧ power j = b := by
  obtain ⟨j, hj, h⟩ := exists_power (Nat.one_le_iff_ne_zero.2 fun h => hb (BitVec.eq_of_toNat_eq h))
    (Nat.le_of_lt_succ b.isLt)
  exact ⟨j, hj, BitVec.eq_of_toNat_eq h⟩

/-! ### The laws of the field -/

theorem fieldProduct_comm (a b : Byte) : fieldProduct a b = fieldProduct b a := by
  refine eq_of_xor_of_powers (g := (fieldProduct · a)) (fieldProduct_xor_right a)
    (fun x y => fieldProduct_xor_left x y a) (fun j _ => ?_) b
  refine eq_of_xor_of_powers (f := (fieldProduct · (power j))) (fun x y => fieldProduct_xor_left x y _)
    (fieldProduct_xor_right _) (fun i _ => ?_) a
  rw [fieldProduct_powers, fieldProduct_powers, Nat.add_comm]

@[simp] theorem fieldProduct_one_right (a : Byte) : fieldProduct a 1 = a := by
  rw [fieldProduct_comm, fieldProduct_one_left]

theorem fieldProduct_assoc (a b c : Byte) :
    fieldProduct a (fieldProduct b c) = fieldProduct (fieldProduct a b) c := by
  by_cases ha : a = 0#8
  · simp [ha]
  · obtain ⟨i, -, rfl⟩ := exists_power_of_ne_zero ha
    rw [fieldProduct_power_left, fieldProduct_power_left, fieldProduct_iterate_twice_left]

/-- The one inverse of 2^i is 2^(255−i). -/
theorem fieldProduct_power_eq_one_iff {i : Nat} (hi : i ≤ 255) (d : Byte) :
    fieldProduct (power i) d = 1 ↔ d = power (255 - i) := by
  have hinverse : fieldProduct (power (255 - i)) (power i) = 1 := by
    rw [fieldProduct_powers, Nat.sub_add_cancel hi, power_periods.1]
  constructor
  · intro h
    calc d = fieldProduct (fieldProduct (power (255 - i)) (power i)) d := by rw [hinverse, fieldProduct_one_left]
      _ = power (255 - i) := by rw [← fieldProduct_assoc, h, fieldProduct_one_right]
  · rintro rfl
    rw [fieldProduct_comm, hinverse]

end Sys2Proof.Claim
end

section
/-! The field engine (rules R81 to R85): GFINIT builds the tables, gfmul on them is the product of the field, and what
GFMUL, GFEXP and GFLOG leave in RES. -/

namespace Sys2Proof.Machine

open Sys2Proof.Claim

variable {i : Instr} {s : State}

/-! ### Executing one command -/

/-- A command that passes its tests is performed (rule R164). -/
theorem exec_of_passes (hi : i ≠ .reset) (hs : Ready s) (h : Passes i s) : exec i s = .next (effectOf i s) := by
  rw [exec_eq_command hi, command_of_no_test hs h]

/-- The first test that holds raises its fault (rules R164, R178). -/
theorem exec_of_test (hi : i ≠ .reset) (hs : Ready s) {x : Bool × FaultCode}
    (hx : (testsOf s i).find? (fun y => y.1) = some x) : exec i s = .next (raiseFault x.2 s) := by
  rw [exec_eq_command hi, command_of_test hs hx]

theorem exec_gfinit (hs : Ready s) : exec .gfinit s = .next (gfinitEffect s) :=
  exec_of_passes (i := .gfinit) nofun hs (List.forall_mem_nil _)

theorem exec_gfmul (x y : Byte) (hs : Ready s) (ht : s.tblv = true) :
    exec (.gfmul x y) s = .next (s.setRes ((gfmul s.exp s.log x y).setWidth 32)) :=
  exec_of_passes (i := .gfmul x y) nofun hs (by simp [Passes, testsOf, ht])

/-! ### GFINIT -/

/-- GFINIT leaves LOG[0] and what lies beyond LOG[255] alone: no power of 2 is such an index (rules R20, R81). -/
theorem read_buildTables_log_of_not_power (exp log : Memory Byte) {v : Nat} (hv : v = 0 ∨ 256 ≤ v) :
    Memory.read (buildTables exp log).2 v = Memory.read log v := by
  simp only [buildTables_eq_powers]
  refine Memory.read_foldl_write_of_not_mem _ (fun i => (power i).toNat) (fun _ => BitVec.ofNat 8) log ?_
  rintro i hi rfl
  obtain hzero | hbeyond := hv
  · exact power_ne_zero (List.mem_range.1 hi).le (BitVec.eq_of_toNat_eq hzero)
  · exact absurd (power i).isLt (Nat.not_lt.2 hbeyond)

/-- Settles O18: the two loops read cell by cell, EXP with period 255 and LOG at the powers of 2. -/
theorem gfinitBuildsTheTables : Obligations.GfinitBuildsTheTables := by
  refine ⟨rfl, fun s hs => ⟨gfinitEffect s, exec_gfinit hs, by simp only [gfinitEffect], ?_, ?_, ?_, ?_⟩⟩
  · intro i hi
    rw [gfinitEffect_exp, gfinitEffect_log, read_buildTables_exp, if_pos (by omega), Nat.mod_eq_of_lt (by omega)]
    exact ⟨rfl, read_buildTables_log _ _ (by omega)⟩
  · intro i h255 h510
    rw [gfinitEffect_exp, read_buildTables_exp, read_buildTables_exp, if_pos h510, if_pos (by omega),
      Nat.mod_eq_sub_mod h255]
  · intro i h511
    rw [gfinitEffect_exp, read_buildTables_exp, if_neg (by omega)]
  · intro v hv
    rw [gfinitEffect_log, read_buildTables_log_of_not_power _ _ hv]

/-! ### GFMUL -/

/-- A logarithm as the number that rule R82 adds. -/
theorem toNat_read_buildTables_log (exp log : Memory Byte) {i : Nat} (hi : i < 255) :
    (Memory.read (buildTables exp log).2 (power i).toNat).toNat = i := by
  rw [read_buildTables_log _ _ hi, BitVec.toNat_ofNat, Nat.mod_eq_of_lt (by omega)]

/-- The look-up of rule R82 in the tables of rule R81 is the product of the field: both add exponents of 2. -/
theorem gfmul_buildTables (exp log : Memory Byte) (a b : Byte) :
    gfmul (buildTables exp log).1 (buildTables exp log).2 a b = fieldProduct a b := by
  by_cases hzero : a = 0#8 ∨ b = 0#8
  · obtain rfl | rfl := hzero <;> simp
  obtain ⟨ha, hb⟩ := not_or.1 hzero
  obtain ⟨i, hi, rfl⟩ := exists_power_of_ne_zero ha
  obtain ⟨j, hj, rfl⟩ := exists_power_of_ne_zero hb
  rw [gfmul, if_neg hzero, toNat_read_buildTables_log _ _ hi, toNat_read_buildTables_log _ _ hj,
    read_buildTables_exp, if_pos (by omega), power_mod, fieldProduct_powers]

/-- Settles O21: GFMUL looks its operands up in the tables GFINIT leaves. -/
theorem gfmulIsPolynomialMultiplication : Obligations.GfmulIsPolynomialMultiplication := by
  intro x y s hs
  refine ⟨_, _, exec_gfinit hs, exec_gfmul (s := gfinitEffect s) x y hs rfl, ?_⟩
  rw [State.setRes_res, gfinitEffect_exp, gfinitEffect_log, gfmul_buildTables]

/-- Settles O22: the laws of the field, carried over to the tables. -/
theorem gfmulObeysTheFieldLaws : Obligations.GfmulObeysTheFieldLaws := by
  refine fun s hs => ⟨_, exec_gfinit hs, fun a b c => ?_⟩
  simp only [gfinitEffect_exp, gfinitEffect_log, gfmul_buildTables]
  refine ⟨fieldProduct_comm a b, fieldProduct_one_right a, fieldProduct_zero_right a, fieldProduct_assoc a b c,
    fieldProduct_xor_right a b c, fun ha d => ?_⟩
  obtain ⟨i, hi, rfl⟩ := exists_power_of_ne_zero ha
  rw [fieldProduct_power_eq_one_iff hi.le, toNat_read_buildTables_log _ _ hi, read_buildTables_exp,
    if_pos (by omega), power_mod]

/-! ### Commands that need the tables -/

/-- GFMUL, GFEXP and GFLOG test the tables first (rules R83 to R85). -/
theorem raises_seq_of_no_tables (hi : i ≠ .reset) (hs : Ready s) (ht : s.tblv = false)
    (hfirst : (testsOf s i).head? = some (!s.tblv, .seq)) : Raises i s 0x02 := by
  obtain ⟨rest, hrest⟩ := List.head?_eq_some_iff.1 hfirst
  have hfind : (testsOf s i).find? (fun y => y.1) = some (!s.tblv, .seq) := by rw [hrest, ht]; rfl
  exact exec_of_test hi hs hfind

theorem toNat_append_bytes (x y : Byte) : (x ++ y : BitVec 16).toNat = 256 * x.toNat + y.toNat := by
  rw [BitVec.toNat_append, ← Nat.shiftLeft_add_eq_or_of_lt y.isLt, Nat.shiftLeft_eq]
  omega

/-- Settles O20: the one test of GFMUL, and the product with its zero test written out. -/
theorem gfmulLooksUpTheTables : Obligations.GfmulLooksUpTheTables := by
  intro x y s hs
  refine ⟨?_, fun ht => raises_seq_of_no_tables nofun hs ht rfl, fun ht => ?_⟩
  · rw [encode, toNat_packWord, toNat_append_bytes, ← Nat.add_assoc]
    rfl
  · rw [exec_gfmul x y hs ht, gfmul, apply_ite (BitVec.setWidth 32), BitVec.ofNat_toNat]
    rfl

/-- Settles O23: the tests of GFEXP and GFLOG in their order, then the cell. -/
theorem tableReadsReturnTheCell : Obligations.TableReadsReturnTheCell := by
  intro b s hs
  refine ⟨?_, ?_, fun ht => ⟨raises_seq_of_no_tables nofun hs ht rfl, raises_seq_of_no_tables nofun hs ht rfl⟩,
    fun ht h510 => ?_, fun ht h510 => ?_, fun ht h1 h255 => ?_, fun ht h255 => ?_, fun ht h0 => ?_⟩
  · rw [encode, toNat_packWord]
    rfl
  · rw [encode, toNat_packWord]
    rfl
  · rw [BitVec.ofNat_toNat]
    exact exec_of_passes (i := .gfexp b) nofun hs (by simp [Passes, testsOf, above, ht, h510])
  · exact exec_of_test (i := .gfexp b) (x := (above b 510, .range)) nofun hs (by simp [testsOf, above, ht, h510])
  · rw [BitVec.ofNat_toNat]
    exact exec_of_passes (i := .gflog b) nofun hs
      (by simp [Passes, testsOf, above, isZero, ht, h255, Nat.one_le_iff_ne_zero.1 h1])
  · exact exec_of_test (i := .gflog b) (x := (above b 255, .range)) nofun hs (by simp [testsOf, above, ht, h255])
  · exact exec_of_test (i := .gflog b) (x := (isZero b, .log0)) nofun hs
      (by simp [testsOf, above, isZero, ht, h0])

end Sys2Proof.Machine
end

section
/-! The loops of the Reed-Solomon unit read cell by cell (rules R91 to R93, R96): GEN after RSGEN is the product of the
linear factors, REG after a step is one row of the long division. -/

namespace Sys2Proof

/-- P4 of rule R7: the data and the check bytes of a version make up its codewords. -/
theorem Params.total_eq {P : Params} (hP : P.ok = true) {v : Nat} (h1 : 1 ≤ v) (h10 : v ≤ 10) :
    P.total v = P.data v + P.ecc v := by
  simp only [Params.ok, Bool.and_eq_true] at hP
  obtain ⟨⟨⟨⟨-, -⟩, -⟩, hcounts⟩, -⟩ := hP
  simp only [Params.counts, List.all_eq_true, decide_eq_true_eq] at hcounts
  obtain ⟨-, -, -, htotal, -⟩ := hcounts v (List.mem_range'_1.2 ⟨h1, by omega⟩)
  exact htotal

namespace Machine

open Sys2Proof.Claim

variable {s : State} {exp log : Memory Byte} {n : Nat}

/-- A loop that writes `f m i` at index `i`, where a turn does not change what a later turn writes: every turn writes
what it would have written first. -/
theorem Memory.read_foldl_update {α : Type} [Inhabited α] [DecidableEq α] {R : Nat → Nat → Prop}
    {f : Memory α → Nat → α} (hf : ∀ i j, R i j → ∀ m v, f (Memory.write m i v) j = f m j) {l : List Nat}
    (hl : l.Pairwise R) (m : Memory α) (j : Nat) :
    Memory.read (l.foldl (fun m i => Memory.write m i (f m i)) m) j = if j ∈ l then f m j else Memory.read m j := by
  induction l generalizing m with
  | nil => simp
  | cons i rest ih =>
    obtain ⟨hi, hrest⟩ := List.pairwise_cons.1 hl
    rw [List.foldl_cons, ih hrest]
    by_cases hj : j ∈ rest
    · rw [if_pos hj, if_pos (List.mem_cons_of_mem i hj), hf i j (hi j hj)]
    · by_cases hji : j = i
      · subst hji
        rw [if_neg hj, if_pos List.mem_cons_self, Memory.read_write_same]
      · rw [if_neg hj, if_neg (by simp [hj, hji]), Memory.read_write_of_ne hji]

/-! ### RSGEN -/

/-- One factor of rule R91; the loop runs downward, so each turn reads the old GEN[j−1]. -/
theorem read_multiplyByRoot (exp log gen : Memory Byte) (i j : Nat) :
    Memory.read (multiplyByRoot exp log gen i) j =
      if 1 ≤ j ∧ j ≤ i + 1 then
        Memory.read gen j ^^^ gfmul exp log (Memory.read gen (j - 1)) (Memory.read exp i)
      else Memory.read gen j := by
  have hdown : (downTo (i + 1) 1).Pairwise (· > ·) := List.pairwise_reverse.2 List.pairwise_lt_range'
  have hturn : ∀ p q, p > q → ∀ (m : Memory Byte) (v : Byte),
      Memory.read (Memory.write m p v) q ^^^
          gfmul exp log (Memory.read (Memory.write m p v) (q - 1)) (Memory.read exp i) =
        Memory.read m q ^^^ gfmul exp log (Memory.read m (q - 1)) (Memory.read exp i) := by
    intro p q hpq m v
    rw [Memory.read_write_of_ne (by omega), Memory.read_write_of_ne (by omega)]
  rw [multiplyByRoot, Memory.read_foldl_update hturn hdown]
  simp only [mem_downTo]

/-- The product of n linear factors has degree n. -/
theorem generatorCoeff_of_gt (exp log : Memory Byte) {n j : Nat} (hj : n < j) : generatorCoeff exp log n j = 0#8 := by
  induction n generalizing j with
  | zero => exact if_neg (by omega)
  | succ n ih => simp [generatorCoeff, ih (j := j) (by omega), ih (j := j - 1) (by omega)]

/-- It is monic. -/
theorem generatorCoeff_zero (exp log : Memory Byte) (n : Nat) : generatorCoeff exp log n 0 = 1#8 := by
  induction n with
  | zero => rfl
  | succ n ih => simp [generatorCoeff, ih]

/-- GEN after RSGEN (rule R91). -/
theorem read_buildGenerator (exp log : Memory Byte) (n : Nat) (gen : Memory Byte) (j : Nat) :
    Memory.read (buildGenerator exp log n gen) j = if j ≤ n then generatorCoeff exp log n j else Memory.read gen j := by
  have turns : ∀ i, i ≤ n → ∀ j,
      Memory.read ((List.range i).foldl (multiplyByRoot exp log) (startGenerator n gen)) j =
        if j ≤ n then generatorCoeff exp log i j else Memory.read gen j := by
    intro i
    induction i with
    | zero =>
      intro _ j
      rw [List.range_zero, List.foldl_nil, read_startGenerator, generatorCoeff]
      grind
    | succ i ih =>
      intro hi j
      rw [List.range_succ, List.foldl_append, List.foldl_cons, List.foldl_nil, read_multiplyByRoot, ih (by omega),
        ih (by omega)]
      by_cases hj : 1 ≤ j ∧ j ≤ i + 1
      · rw [if_pos hj, if_pos (by omega), if_pos (by omega), if_pos (by omega), generatorCoeff, if_neg (by omega)]
      · obtain rfl | hbeyond : j = 0 ∨ i + 1 < j := by omega
        · simp [generatorCoeff_zero]
        · rw [if_neg hj, generatorCoeff_of_gt _ _ hbeyond, generatorCoeff_of_gt _ _ (by omega : i < j)]
  exact turns n le_rfl j

/-! ### RSSTEP -/

theorem read_shiftRegister (hn : 0 < n) (reg : Memory Byte) (j : Nat) :
    Memory.read (shiftRegister n reg) j =
      if j + 1 < n then Memory.read reg (j + 1) else if j < n then 0#8 else Memory.read reg j := by
  have hturn : ∀ p q, p < q → ∀ (m : Memory Byte) (v : Byte),
      Memory.read (Memory.write m p v) (q + 1) = Memory.read m (q + 1) :=
    fun p q hpq m v => Memory.read_write_of_ne (by omega) m v
  rw [shiftRegister, Memory.read_write,
    Memory.read_foldl_update (f := fun g j => Memory.read g (j + 1)) hturn List.pairwise_lt_range]
  simp only [List.mem_range]
  grind

theorem read_addFeedback (exp log gen : Memory Byte) (n : Nat) (f : Byte) (reg : Memory Byte) (j : Nat) :
    Memory.read (addFeedback exp log gen n f reg) j =
      if j < n then Memory.read reg j ^^^ gfmul exp log f (Memory.read gen (j + 1)) else Memory.read reg j := by
  have hturn : ∀ p q, p < q → ∀ (m : Memory Byte) (v : Byte),
      Memory.read (Memory.write m p v) q ^^^ gfmul exp log f (Memory.read gen (q + 1)) =
        Memory.read m q ^^^ gfmul exp log f (Memory.read gen (q + 1)) := by
    intro p q hpq m v
    rw [Memory.read_write_of_ne (by omega)]
  rw [addFeedback, Memory.read_foldl_update hturn List.pairwise_lt_range]
  simp only [List.mem_range]

/-- REG after one step of the division (rule R93); a feedback of zero adds nothing. -/
theorem read_divisionStep (exp log gen : Memory Byte) (hn : 0 < n) (reg : Memory Byte) (d : Byte) (j : Nat) :
    Memory.read (divisionStep exp log gen n reg d) j =
      if j < n then divisionRow exp log (Memory.read gen) n (Memory.read reg) d j else Memory.read reg j := by
  have hshift := read_shiftRegister hn reg j
  simp only [divisionStep, divisionRow]
  split
  · next hf =>
    rw [hshift, hf, gfmul_zero_left, BitVec.xor_zero]
    grind
  · rw [read_addFeedback, hshift]
    grind

/-! ### All data bytes -/

/-- A row of the division reads the register below its length and the generator up to its degree. -/
theorem divisionRow_congr {g g' r r' : Nat → Byte} (hg : ∀ j, j ≤ n → g j = g' j) (hr : ∀ j, j < n → r j = r' j)
    (d : Byte) {j : Nat} (hj : j < n) : divisionRow exp log g n r d j = divisionRow exp log g' n r' d j := by
  rw [divisionRow, divisionRow, hr 0 (by omega), hg (j + 1) hj]
  split
  · next hlt => rw [hr (j + 1) hlt]
  · rfl

/-- REG[0..n−1] after RSCLR and the data bytes is the remainder of the long division (rule R90). -/
theorem read_feedRegister_of_lt {g : Nat → Byte} (hg : ∀ j, j ≤ n → Memory.read s.gen j = g j) (data : List Byte)
    {j : Nat} (hj : j < n) :
    Memory.read (feedRegister s n data) j = remainder s.exp s.log g n data j := by
  refine List.foldl_rel (r := fun (m : Memory Byte) (r : Nat → Byte) => ∀ j, j < n → Memory.read m j = r j) ?_ ?_ j hj
  · exact fun j hj => (read_clearRegister n s.reg j).trans (if_pos hj)
  · intro d _ m r hr j hj
    rw [read_divisionStep _ _ _ (by omega), if_pos hj, divisionRow_congr hg hr d hj]

/-- The cells of REG at and above the degree are not touched. -/
theorem read_feedRegister_of_le (hn : 0 < n) (data : List Byte) {j : Nat} (hj : n ≤ j) :
    Memory.read (feedRegister s n data) j = Memory.read s.reg j := by
  refine List.foldlRecOn (motive := fun m => Memory.read m j = Memory.read s.reg j) _ _ ?_ fun m hm d _ => ?_
  · rw [read_clearRegister, if_neg (by omega)]
  · rw [read_divisionStep _ _ _ hn, if_neg (by omega), hm]

/-- The data segment, CW[0..k−1] (rule R96). -/
def dataSegment (s : State) (k : Nat) : List Byte := (List.range k).map (Memory.read s.cw)

/-- RSCLR and then the data segment, as RSENC feeds it. -/
theorem feedData_rsclrEffect (k : Nat) (s : State) :
    feedData k (rsclrEffect s) = { s with reg := feedRegister s s.genn.toNat (dataSegment s k) } := by
  rw [feedRegister, dataSegment, List.foldl_map]
  exact List.foldl_hom (fun r => { s with reg := r })
    (g₁ := fun r i => divisionStep s.exp s.log s.gen s.genn.toNat r (Memory.read s.cw i))
    (g₂ := fun s i => rsstepEffect (Memory.read s.cw i) s) fun _ _ => rfl

/-! ### RSENC -/

/-- CW after the check bytes are stored (rule R96). -/
theorem read_storeCheckBytes_of_lt {k j : Nat} (hj : j < n) :
    Memory.read (storeCheckBytes n k s).cw (k + j) = Memory.read s.reg j :=
  Memory.read_foldl_write_of_nodup _ (k + ·) (Memory.read s.reg) s.cw
    (List.nodup_range.map (add_right_injective k)) (List.mem_range.2 hj)

theorem read_storeCheckBytes_of_not_check {k i : Nat} (hi : i < k ∨ k + n ≤ i) :
    Memory.read (storeCheckBytes n k s).cw i = Memory.read s.cw i := by
  refine Memory.read_foldl_write_of_not_mem _ (k + ·) (fun _ => Memory.read s.reg) s.cw fun j hj => ?_
  have := List.mem_range.1 hj
  omega

/-- RSENC for a degree of 8 bits: the generator, the register that divided the data segment by it, the check bytes
stored after the data. -/
theorem rsencEffect_eq (P : Params) (hn : P.ecc s.ver.toNat ≤ 255) :
    rsencEffect P s = storeCheckBytes (P.ecc s.ver.toNat) (P.data s.ver.toNat)
      { rsgenEffect (P.ecc s.ver.toNat) s with
        reg := feedRegister (rsgenEffect (P.ecc s.ver.toNat) s) (P.ecc s.ver.toNat)
          (dataSegment s (P.data s.ver.toNat)) } := by
  have hgenn : (rsgenEffect (P.ecc s.ver.toNat) s).genn.toNat = P.ecc s.ver.toNat :=
    (BitVec.toNat_ofNat _ _).trans (Nat.mod_eq_of_lt (by omega))
  rw [rsencEffect, feedData_rsclrEffect, hgenn]
  rfl

end Machine
end Sys2Proof
end

section
/-! The Reed-Solomon commands (rules R91 to R96): their words, their tests in order, and the stores they leave. -/

namespace Sys2Proof.Machine

open Sys2Proof.Claim

variable {i : Instr} {s : State}

/-- A command whose first test holds raises that test's fault. -/
theorem raises_of_first_test (hi : i ≠ .reset) (hs : Ready s) {b : Bool} {k : FaultCode}
    (hfirst : (testsOf s i).head? = some (b, k)) (hb : b = true) : Raises i s k.code := by
  obtain ⟨rest, hrest⟩ := List.head?_eq_some_iff.1 hfirst
  exact exec_of_test (x := (b, k)) hi hs (by rw [hrest, hb]; rfl)

/-- Settles O24: the loop of RSGEN is the recurrence of the product, which is monic. -/
theorem rsgenBuildsTheGeneratorPolynomial : Obligations.RsgenBuildsTheGeneratorPolynomial := by
  intro b s hs
  refine ⟨?_, fun ht => raises_seq_of_no_tables nofun hs ht rfl, fun ht hb => ?_, fun ht h1 h255 => ?_⟩
  · rw [encode, toNat_packWord]
    rfl
  · exact exec_of_test (i := .rsgen b) (x := (isZero b || above b 255, .range)) nofun hs
      (by simpa [testsOf, above, isZero, ht, ← or_iff_not_imp_left] using hb)
  · have hread := read_buildGenerator s.exp s.log b.toNat s.gen
    refine ⟨rsgenEffect b.toNat s, exec_of_passes (i := .rsgen b) nofun hs
      (by simp [Passes, testsOf, above, isZero, ht, h255, Nat.one_le_iff_ne_zero.1 h1]), rfl, ?_, ?_, ?_⟩
    · exact fun j hj => (hread j).trans (if_pos hj)
    · exact (hread 0).trans ((if_pos (Nat.zero_le _)).trans (generatorCoeff_zero _ _ _))
    · exact fun j hj => (hread j).trans (if_neg (Nat.not_le.2 hj))

/-- Settles O25: the one test of RSCLR, and the loop of writes of zero. -/
theorem rsclrClearsTheRegister : Obligations.RsclrClearsTheRegister := by
  refine ⟨rfl, fun s hs => ⟨fun hg => ?_, fun hg => ?_⟩⟩
  · exact raises_of_first_test (i := .rsclr) nofun hs rfl (by simp [hg])
  · have hread := read_clearRegister s.genn.toNat s.reg
    exact ⟨rsclrEffect s, exec_of_passes (i := .rsclr) nofun hs (by simp [Passes, testsOf, hg]), rfl,
      fun j hj => (hread j).trans (if_pos hj), fun j hj => (hread j).trans (if_neg (Nat.not_lt.2 hj))⟩

/-- Settles O26: GENV = 1 goes with a positive degree, so the step is one row of the division. -/
theorem rsstepIsOneDivisionStep : Obligations.RsstepIsOneDivisionStep := by
  intro b s hs hregs
  refine ⟨?_, fun hflags => ?_, fun ht hg h255 => ?_, fun ht hg h255 => ?_⟩
  · rw [encode, toNat_packWord]
    rfl
  · exact raises_of_first_test (i := .rsstep b) nofun hs rfl (by simpa using hflags)
  · exact exec_of_test (i := .rsstep b) (x := (above b 255, .range)) nofun hs (by simp [testsOf, above, ht, hg, h255])
  · obtain ⟨-, hversion, -⟩ := registersOk_iff.1 hregs
    have hread := read_divisionStep s.exp s.log s.gen (hversion.genv.1 hg) s.reg (b.setWidth 8)
    rw [BitVec.ofNat_toNat]
    exact ⟨rsstepEffect (b.setWidth 8) s,
      exec_of_passes (i := .rsstep b) nofun hs (by simp [Passes, testsOf, above, ht, hg, h255]), rfl,
      fun j hj => (hread j).trans (if_pos hj), fun j hj => (hread j).trans (if_neg (Nat.not_lt.2 hj))⟩

/-- Settles O27: the tests of RSRD and GENRD in their order, then the cell. -/
theorem generatorAndRegisterReadsReturnTheElement : Obligations.GeneratorAndRegisterReadsReturnTheElement := by
  intro a s hs
  refine ⟨?_, ?_, fun hg => ⟨?_, ?_⟩, fun hg ha => ?_, fun hg ha => ?_, fun hg ha => ?_, fun hg ha => ?_⟩
  · rw [encode, toNat_packWord]
    rfl
  · rw [encode, toNat_packWord]
    rfl
  · exact raises_of_first_test (i := .rsrd a) nofun hs rfl (by simp [hg])
  · exact raises_of_first_test (i := .genrd a) nofun hs rfl (by simp [hg])
  · rw [BitVec.ofNat_toNat]
    exact exec_of_passes (i := .rsrd a) nofun hs (by simp [Passes, testsOf, atOrBeyond, hg, ha])
  · exact exec_of_test (i := .rsrd a) (x := (atOrBeyond a s.genn.toNat, .range)) nofun hs
      (by simp [testsOf, atOrBeyond, hg, ha])
  · rw [BitVec.ofNat_toNat]
    exact exec_of_passes (i := .genrd a) nofun hs (by simp [Passes, testsOf, above, hg, ha])
  · exact exec_of_test (i := .genrd a) (x := (above a s.genn.toNat, .range)) nofun hs
      (by simp [testsOf, above, hg, ha])

/-- RSENC with its needs met (rule R96). -/
theorem exec_rsenc (hs : Ready s) (ht : s.tblv = true) (hv : s.verv = true) :
    exec .rsenc s = .next (rsencEffect params s) :=
  exec_of_passes (i := .rsenc) nofun hs (by simp [Passes, testsOf, ht, hv])

/-- Settles O28: the generator, the register and the check bytes of `rsencEffect_eq`, store by store. -/
theorem rsencStoresTheRemainder : Obligations.RsencStoresTheRemainder := by
  refine ⟨rfl, fun s hs hregs => ⟨fun hflags => ?_, fun ht hv => ?_⟩⟩
  · exact raises_of_first_test (i := .rsenc) nofun hs rfl (by simpa using hflags)
  · have hver1 := one_le_ver_of_registersOk hregs hv
    have hver10 := ver_le_of_registersOk hregs
    obtain ⟨h1, h255⟩ := Params.ecc_bounds params_ok hver1 hver10
    have hgen := read_buildGenerator s.exp s.log (params.ecc s.ver.toNat) s.gen
    refine ⟨_, exec_rsenc hs ht hv, ?_⟩
    rw [rsencEffect_eq params h255]
    refine ⟨rfl, fun j hj => (hgen j).trans (if_pos hj), fun j hj => (hgen j).trans (if_neg (Nat.not_le.2 hj)), ?_, ?_,
      ?_, ?_⟩
    · exact fun j hj => read_feedRegister_of_lt (fun j hj => (hgen j).trans (if_pos hj)) _ hj
    · exact fun j hj => read_feedRegister_of_le h1 _ hj
    · exact fun j hj => read_storeCheckBytes_of_lt hj
    · rw [Params.total_eq params_ok hver1 hver10]
      exact fun k hk => read_storeCheckBytes_of_not_check hk

end Sys2Proof.Machine
end

section
/-! Codewords as polynomials over the field (rule R90): the generator vanishes at its roots, a row of the division
multiplies the value of the register by the root and adds the data byte at x^n, and so a codeword vanishes where its
generator does. -/

namespace Sys2Proof.Claim

open Sys2Proof.Machine

/-! ### Horner's rule -/

/-- The value at 2^i of the polynomial with coefficients c 0, ..., c (k−1), highest power first. -/
def valueAt (i : Nat) (c : Nat → Byte) (k : Nat) : Byte :=
  (List.range k).foldl (fun x m => fieldProduct x (power i) ^^^ c m) 0

theorem codewordAt_eq_valueAt (cw : Memory Byte) (k i : Nat) : codewordAt cw k i = valueAt i (Memory.read cw) k := rfl

variable {i : Nat} {c c' : Nat → Byte} {k : Nat}

@[simp] theorem valueAt_zero (i : Nat) (c : Nat → Byte) : valueAt i c 0 = 0#8 := rfl

theorem valueAt_succ (i : Nat) (c : Nat → Byte) (k : Nat) :
    valueAt i c (k + 1) = fieldProduct (valueAt i c k) (power i) ^^^ c k := by
  simp only [valueAt, List.range_succ, List.foldl_append, List.foldl_cons, List.foldl_nil]

theorem valueAt_congr (h : ∀ j, j < k → c j = c' j) : valueAt i c k = valueAt i c' k := by
  refine List.foldl_ext _ _ _ fun x m hm => ?_
  rw [h m (List.mem_range.1 hm)]

theorem valueAt_xor (i : Nat) (c c' : Nat → Byte) (k : Nat) :
    valueAt i (fun j => c j ^^^ c' j) k = valueAt i c k ^^^ valueAt i c' k := by
  induction k with
  | zero => simp
  | succ k ih => rw [valueAt_succ, valueAt_succ, valueAt_succ, ih, fieldProduct_xor_left, xor_xor_xor_comm]

theorem valueAt_scale (i : Nat) (f : Byte) (c : Nat → Byte) (k : Nat) :
    valueAt i (fun j => fieldProduct f (c j)) k = fieldProduct f (valueAt i c k) := by
  induction k with
  | zero => simp
  | succ k ih => rw [valueAt_succ, valueAt_succ, ih, fieldProduct_xor_right, fieldProduct_assoc]

/-- The first k coefficients stand n powers higher. -/
theorem valueAt_add (i : Nat) (c : Nat → Byte) (k n : Nat) :
    valueAt i c (k + n) = fieldProduct (valueAt i c k) (power (i * n)) ^^^ valueAt i (fun j => c (k + j)) n := by
  induction n with
  | zero => rw [Nat.mul_zero, power, fieldProduct_one_right, valueAt_zero, BitVec.xor_zero, Nat.add_zero]
  | succ n ih =>
    rw [← Nat.add_assoc, valueAt_succ, ih, valueAt_succ, fieldProduct_xor_left, ← fieldProduct_assoc,
      fieldProduct_powers, ← Nat.mul_succ, BitVec.xor_assoc]

/-- The leading coefficient taken out. -/
theorem valueAt_leading (i : Nat) (c : Nat → Byte) (n : Nat) :
    valueAt i c (n + 1) = fieldProduct (c 0) (power (i * n)) ^^^ valueAt i (fun j => c (j + 1)) n := by
  have hone : valueAt i c 1 = c 0 := by rw [valueAt_succ, valueAt_zero, fieldProduct_zero_left, BitVec.zero_xor]
  have hsplit := valueAt_add i c 1 n
  simp only [hone, Nat.add_comm 1] at hsplit
  exact hsplit

/-! ### The generator vanishes at its roots -/

variable {s : State}

/-- On built tables gfmul is the product of the field (rules R80, R82). -/
theorem gfmul_eq_fieldProduct (htables : s.TablesOk) (ht : s.tblv = true) (a b : Byte) :
    gfmul s.exp s.log a b = fieldProduct a b :=
  (gfmul_congr (htables.exp ht) (htables.log ht) a b).trans (gfmul_buildTables [] [] a b)

theorem read_exp_eq_power (htables : s.TablesOk) (ht : s.tblv = true) {i : Nat} (hi : i < 255) :
    Memory.read s.exp i = power i := by
  rw [htables.exp ht i (by rw [Config.expDepth]; omega), read_buildTables_exp, if_pos (by omega), Nat.mod_eq_of_lt hi]

/-- A polynomial times x + a: its coefficients and, one place lower, their multiples by a. -/
theorem valueAt_linear_factor (i : Nat) (a : Byte) (hk : c k = 0#8) :
    valueAt i (fun j => c j ^^^ if j = 0 then 0#8 else fieldProduct (c (j - 1)) a) (k + 1) =
      fieldProduct (valueAt i c k) (power i ^^^ a) := by
  have hlower : valueAt i (fun j => if j = 0 then 0#8 else fieldProduct (c (j - 1)) a) (k + 1) =
      fieldProduct (valueAt i c k) a := by
    simp [valueAt_leading, fieldProduct_comm _ a, valueAt_scale]
  rw [valueAt_xor, hlower, valueAt_succ, hk, BitVec.xor_zero, fieldProduct_xor_right]

/-- The polynomial RSGEN n builds has the roots 2^0, ..., 2^(n−1) (rule R90). -/
theorem valueAt_generatorCoeff (htables : s.TablesOk) (ht : s.tblv = true) {n i : Nat} (hn : n ≤ 255) (hi : i < n) :
    valueAt i (generatorCoeff s.exp s.log n) (n + 1) = 0#8 := by
  induction n with
  | zero => exact absurd hi (Nat.not_lt_zero i)
  | succ n ih =>
    have hcoeff : generatorCoeff s.exp s.log (n + 1) = fun j => generatorCoeff s.exp s.log n j ^^^
        if j = 0 then 0#8 else fieldProduct (generatorCoeff s.exp s.log n (j - 1)) (power n) := by
      funext j
      simp only [generatorCoeff, gfmul_eq_fieldProduct htables ht, read_exp_eq_power htables ht hn,
        BitVec.ofNat_eq_ofNat]
    rw [hcoeff, valueAt_linear_factor i _ (generatorCoeff_of_gt _ _ (Nat.lt_succ_self n))]
    obtain rfl | hin := Nat.eq_or_lt_of_le (Nat.le_of_lt_succ hi)
    · rw [BitVec.xor_self, fieldProduct_zero_right]
    · rw [ih (by omega) hin, fieldProduct_zero_left]

/-! ### The division -/

/-- Shifting the register left drops its leading coefficient and raises every other by one power. -/
theorem valueAt_shift (i : Nat) (r : Nat → Byte) {n : Nat} (hn : 0 < n) :
    valueAt i (fun j => if j + 1 < n then r (j + 1) else 0#8) n =
      fieldProduct (valueAt i r n) (power i) ^^^ fieldProduct (r 0) (power (i * n)) := by
  have hlow : valueAt i (fun j => if j < n then r j else 0#8) n = valueAt i r n :=
    valueAt_congr fun j hj => if_pos hj
  have hlead := valueAt_leading i (fun j => if j < n then r j else 0#8) n
  rw [valueAt_succ, hlow, if_neg (lt_irrefl n), BitVec.xor_zero, if_pos hn] at hlead
  rw [hlead, BitVec.xor_comm (fieldProduct _ _), BitVec.xor_assoc, BitVec.xor_self, BitVec.xor_zero]

/-- One row of the division, where the generator vanishes: the old value times the root, plus the data byte at x^n. -/
theorem valueAt_divisionRow (htables : s.TablesOk) (ht : s.tblv = true) {g : Nat → Byte} {n : Nat} (hn : 0 < n)
    (hmonic : g 0 = 1) (hroot : valueAt i g (n + 1) = 0#8) (r : Nat → Byte) (d : Byte) :
    valueAt i (divisionRow s.exp s.log g n r d) n =
      fieldProduct (valueAt i r n) (power i) ^^^ fieldProduct d (power (i * n)) := by
  have htail : valueAt i (fun j => g (j + 1)) n = power (i * n) := by
    rw [valueAt_leading, hmonic, fieldProduct_one_left, BitVec.xor_eq_zero_iff] at hroot
    exact hroot.symm
  have hrow : divisionRow s.exp s.log g n r d =
      fun j => (if j + 1 < n then r (j + 1) else 0#8) ^^^ fieldProduct (d ^^^ r 0) (g (j + 1)) := by
    funext j
    simp only [divisionRow, gfmul_eq_fieldProduct htables ht, BitVec.ofNat_eq_ofNat]
  rw [hrow, valueAt_xor, valueAt_shift i r hn, valueAt_scale, htail, fieldProduct_xor_left, BitVec.xor_assoc,
    BitVec.xor_comm (fieldProduct d _), ← BitVec.xor_assoc (fieldProduct (r 0) _), BitVec.xor_self, BitVec.zero_xor]

/-- Where the generator vanishes, the remainder has the value of the data n powers higher (rule R90). -/
theorem valueAt_remainder (htables : s.TablesOk) (ht : s.tblv = true) {g : Nat → Byte} {n : Nat} (hn : 0 < n)
    (hmonic : g 0 = 1) (hroot : valueAt i g (n + 1) = 0#8) (k : Nat) :
    valueAt i (remainder s.exp s.log g n (dataSegment s k)) n =
      fieldProduct (valueAt i (Memory.read s.cw) k) (power (i * n)) := by
  have hzero : valueAt i (fun _ => 0) n = 0#8 := by simpa using valueAt_scale i 0 (fun _ => 0) n
  rw [remainder, dataSegment, List.foldl_map]
  refine List.foldl_rel (r := fun (r : Nat → Byte) (x : Byte) => valueAt i r n = fieldProduct x (power (i * n))) ?_ ?_
  · exact hzero.trans (fieldProduct_zero_left _).symm
  · intro m _ r x hr
    rw [valueAt_divisionRow htables ht hn hmonic hroot, hr, fieldProduct_xor_left, ← fieldProduct_assoc,
      ← fieldProduct_assoc, fieldProduct_comm (power (i * n))]

end Sys2Proof.Claim

namespace Sys2Proof.Machine

open Sys2Proof.Claim

/-- Settles O29: the data vanish against the remainder, the check bytes, at every root of the generator. -/
theorem rsencCodewordVanishesAtTheRoots : Obligations.RsencCodewordVanishesAtTheRoots := by
  intro s hs hregs htables ht hv
  have hver1 := one_le_ver_of_registersOk hregs hv
  have hver10 := ver_le_of_registersOk hregs
  obtain ⟨h1, h255⟩ := Params.ecc_bounds params_ok hver1 hver10
  obtain ⟨-, hrsenc⟩ := rsencStoresTheRemainder.2 s hs hregs
  obtain ⟨t, hexec, -, -, -, hreg, -, hcheck, hdata⟩ := hrsenc ht hv
  refine ⟨t, hexec, fun i hi => ?_⟩
  have hhead : valueAt i (Memory.read t.cw) (params.data s.ver.toNat) =
      valueAt i (Memory.read s.cw) (params.data s.ver.toNat) := valueAt_congr fun j hj => hdata j (.inl hj)
  have htail := valueAt_congr (i := i) fun j hj => (hcheck j hj).trans (hreg j hj)
  have hroot := valueAt_generatorCoeff htables ht h255 hi
  rw [codewordAt_eq_valueAt, Params.total_eq params_ok hver1 hver10, valueAt_add, hhead, htail]
  exact BitVec.xor_eq_zero_iff.2
    (valueAt_remainder htables ht h1 (generatorCoeff_zero _ _ _) hroot _).symm

/-! ### Linearity -/

/-- A row of the division adds up in the register and the data byte. -/
theorem divisionRow_xor {s : State} (htables : s.TablesOk) (ht : s.tblv = true) (g : Nat → Byte) (n : Nat)
    (r r' : Nat → Byte) (d d' : Byte) :
    divisionRow s.exp s.log g n (fun j => r j ^^^ r' j) (d ^^^ d') =
      fun j => divisionRow s.exp s.log g n r d j ^^^ divisionRow s.exp s.log g n r' d' j := by
  funext j
  have hshift : (if j + 1 < n then r (j + 1) ^^^ r' (j + 1) else 0) =
      (if j + 1 < n then r (j + 1) else 0) ^^^ (if j + 1 < n then r' (j + 1) else 0) := by split <;> simp
  simp only [divisionRow, gfmul_eq_fieldProduct htables ht]
  rw [hshift, xor_xor_xor_comm d, fieldProduct_xor_left, xor_xor_xor_comm]

/-- The remainder is additive in the data (rule R90). -/
theorem remainder_xor {s : State} (htables : s.TablesOk) (ht : s.tblv = true) (g : Nat → Byte) (n : Nat)
    {d e : List Byte} (hlen : d.length = e.length) (j : Nat) :
    remainder s.exp s.log g n (List.zipWith (· ^^^ ·) d e) j =
      remainder s.exp s.log g n d j ^^^ remainder s.exp s.log g n e j := by
  have hfold : ∀ r r' : Nat → Byte,
      (List.zipWith (· ^^^ ·) d e).foldl (divisionRow s.exp s.log g n) (fun j => r j ^^^ r' j) =
        fun j => d.foldl (divisionRow s.exp s.log g n) r j ^^^ e.foldl (divisionRow s.exp s.log g n) r' j := by
    induction d generalizing e with
    | nil =>
      intro r r'
      rw [List.length_eq_zero_iff.1 hlen.symm]
      rfl
    | cons a d ih =>
      intro r r'
      obtain ⟨b, e, rfl⟩ := List.exists_cons_of_length_eq_add_one hlen.symm
      rw [List.zipWith_cons_cons, List.foldl_cons, divisionRow_xor htables ht, ih (Nat.succ.inj hlen)]
      rfl
  exact congrFun (hfold (fun _ => 0) fun _ => 0) j

/-- Settles O30: REG holds the remainder, which is additive; zero data are the sum of themselves with themselves. -/
theorem checkBytesAreLinear : Obligations.CheckBytesAreLinear := by
  intro s n d e htables ht hlen
  have hread : ∀ (data : List Byte) (j : Nat), j < n →
      Memory.read (feedRegister s n data) j = remainder s.exp s.log (Memory.read s.gen) n data j :=
    fun data j => read_feedRegister_of_lt (fun _ _ => rfl) data
  refine ⟨fun j hj => ?_, fun k j hj => ?_⟩
  · rw [hread _ j hj, hread _ j hj, hread _ j hj, remainder_xor htables ht _ _ hlen]
  · have hzeros : List.zipWith (· ^^^ ·) (List.replicate k (0 : Byte)) (List.replicate k 0) = List.replicate k 0 := by
      simp
    rw [hread _ j hj, ← hzeros, remainder_xor htables ht _ _ rfl]
    exact BitVec.xor_self

end Sys2Proof.Machine
end

section
/-! The packer's register and store commands (rules R106 to R111, R117, R118): their words, their tests, and the one
register or element they move. -/

namespace Sys2Proof.Machine

open Sys2Proof.Claim

/-! ### PAYWR, PAYRD, CWRD, CWWR -/

/-- Settles O31: one range test each, then one write or one read of PAY. -/
theorem payloadAccessMovesOneCharacter : Obligations.PayloadAccessMovesOneCharacter := by
  intro a b s hs
  refine ⟨?_, ?_, fun ha => ?_, fun ha => ?_, fun ha => ⟨?_, ?_⟩⟩
  · rw [encode, toNat_packWord]
    rfl
  · rw [encode, toNat_packWord]
    rfl
  · exact ⟨_, exec_of_passes (i := .paywr a b) nofun hs (by simp [Passes, testsOf, above, ha]), rfl,
      Memory.read_write_same _ _ _, fun i hi => Memory.read_write_of_ne hi _ _⟩
  · rw [BitVec.ofNat_toNat]
    exact exec_of_passes (i := .payrd a) nofun hs (by simp [Passes, testsOf, above, ha])
  · exact raises_of_first_test (i := .paywr a b) nofun hs rfl (by simp [above, ha])
  · exact raises_of_first_test (i := .payrd a) nofun hs rfl (by simp [above, ha])

/-- Settles O32: the range tests of the index and of the byte, then one write or one read of CW. -/
theorem codewordAccessMovesOneByte : Obligations.CodewordAccessMovesOneByte := by
  intro a b s hs
  refine ⟨?_, ?_, fun ha hb => ?_, fun hab => ?_, fun ha => ?_, fun ha => ?_⟩
  · rw [encode, toNat_packWord]
    rfl
  · rw [encode, toNat_packWord]
    rfl
  · rw [BitVec.ofNat_toNat]
    exact ⟨_, exec_of_passes (i := .cwwr a b) nofun hs (by simp [Passes, testsOf, above, ha, hb]), rfl,
      Memory.read_write_same _ _ _, fun i hi => Memory.read_write_of_ne hi _ _⟩
  · exact raises_of_first_test (i := .cwwr a b) nofun hs rfl (by simpa [above] using hab)
  · rw [BitVec.ofNat_toNat]
    exact exec_of_passes (i := .cwrd a) nofun hs (by simp [Passes, testsOf, above, ha])
  · exact raises_of_first_test (i := .cwrd a) nofun hs rfl (by simp [above, ha])

/-! ### SETLEN, SETVER, VSEL -/

/-- Settles O33: SETLEN tests nothing, SETVER tests for 0 and for more than 10 at once, then writes the version. -/
theorem setlenAndSetverWriteTheirRegister : Obligations.SetlenAndSetverWriteTheirRegister := by
  intro b s hs
  refine ⟨?_, ?_, ?_, fun h1 h10 => ?_, fun hb => ?_⟩
  · rw [encode, toNat_packWord]
    rfl
  · rw [encode, toNat_packWord]
    rfl
  · exact exec_of_passes (i := .setlen b) nofun hs (List.forall_mem_nil _)
  · rw [BitVec.ofNat_toNat]
    exact exec_of_passes (i := .setver b) nofun hs
      (by simp [Passes, testsOf, above, isZero, h10, Nat.one_le_iff_ne_zero.1 h1])
  · exact raises_of_first_test (i := .setver b) nofun hs rfl (by simpa [above, isZero] using hb)

/-- Settles O34: VSEL of the default instance, which meets rule R7, selects what VSEL of every such instance does. -/
theorem vselSelectsTheSmallestVersionThatFits : Obligations.VselSelectsTheSmallestVersionThatFits := by
  obtain ⟨-, hvsel⟩ := selectionIsMonotoneForEveryInstance params params_ok
  rw [execOf_params] at hvsel
  exact ⟨rfl, hvsel⟩

end Sys2Proof.Machine
end

section
/-! The bit stream of the packer (rules R112, R113): its pieces with their lengths, its bits in closed form, and the
bytes PACK cuts it into. -/

namespace Sys2Proof

/-- P3 of rule R7: the indicators and a payload that fits the capacity fit the bit budget. -/
theorem Params.budget_le {P : Params} (hP : P.ok = true) {v : Nat} (h1 : 1 ≤ v) (h10 : v ≤ 10) :
    4 + lbits v + 8 * P.cap v ≤ 8 * P.data v := by
  simp only [Params.ok, Bool.and_eq_true] at hP
  obtain ⟨⟨⟨⟨-, -⟩, hbudget⟩, -⟩, -⟩ := hP
  simp only [Params.budget, List.all_eq_true, decide_eq_true_eq] at hbudget
  exact hbudget v (List.mem_range'_1.2 ⟨h1, by omega⟩)

namespace Machine

open Sys2Proof.Claim

/-! ### Numbers as bits, most significant bit first -/

@[simp] theorem length_bitsMsbFirst (x w : Nat) : (bitsMsbFirst x w).length = w := by simp [bitsMsbFirst]

theorem getElem?_bitsMsbFirst (x : Nat) {w j : Nat} (hj : j < w) :
    (bitsMsbFirst x w)[j]? = some (x.testBit (w - 1 - j)) := by simp [bitsMsbFirst, hj]

/-- The bytes `g 0`, ..., `g (n - 1)` appended one after the other. -/
def bytesMsbFirst (g : Nat → Byte) (n : Nat) : List Bool :=
  (List.range n).flatMap (fun k => bitsMsbFirst (g k).toNat 8)

theorem bytesMsbFirst_succ (g : Nat → Byte) (n : Nat) :
    bytesMsbFirst g (n + 1) = bytesMsbFirst g n ++ bitsMsbFirst (g n).toNat 8 := by
  simp [bytesMsbFirst, List.range_succ]

@[simp] theorem length_bytesMsbFirst (g : Nat → Byte) (n : Nat) : (bytesMsbFirst g n).length = 8 * n := by
  simp [bytesMsbFirst, List.length_flatMap, Nat.mul_comm]

/-- Bit i of the bytes is bit i % 8, from the left, of byte i / 8. -/
theorem getElem?_bytesMsbFirst (g : Nat → Byte) {n i : Nat} (hi : i < 8 * n) :
    (bytesMsbFirst g n)[i]? = some ((g (i / 8)).getLsbD (7 - i % 8)) := by
  induction n with
  | zero => omega
  | succ n ih =>
    rw [bytesMsbFirst_succ]
    by_cases hlast : i < 8 * n
    · rw [List.getElem?_append_left (by simpa using hlast), ih hlast]
    · have hn : i / 8 = n := by omega
      rw [List.getElem?_append_right (by simpa using hlast), length_bytesMsbFirst,
        getElem?_bitsMsbFirst _ (by omega), hn, BitVec.testBit_toNat, show 8 - 1 - (i - 8 * n) = 7 - i % 8 by omega]

/-! ### The pieces of the stream -/

/-- The mode indicator, the length indicator and the payload take this many bits (rule R112, items 1 to 3). -/
def contentBits (v len : Nat) : Nat := 4 + lbits v + 8 * len

/-- The number of bits before the first pad byte: content and terminator, rounded up to bytes (rule R112, items 1 to
5). -/
def unpaddedBits (P : Params) (v len : Nat) : Nat :=
  (contentBits v len + min 4 (8 * P.data v - contentBits v len) + 7) / 8 * 8

theorem streamContent_eq_append (v len : Nat) (pay : Memory Char16) :
    streamContent v len pay =
      bitsMsbFirst 0b0100 4 ++ (bitsMsbFirst len (lbits v) ++ bytesMsbFirst (payloadByte pay) len) :=
  List.append_assoc _ _ _

@[simp] theorem length_streamContent (v len : Nat) (pay : Memory Char16) :
    (streamContent v len pay).length = contentBits v len := by
  simp [streamContent_eq_append, contentBits, Nat.add_assoc]

/-- The stream is the content, zero bits up to the pad bytes, and the pad bytes. -/
theorem bitStream_eq_append (P : Params) (v len : Nat) (pay : Memory Char16) :
    bitStream P v len pay = streamContent v len pay ++
      (List.replicate (unpaddedBits P v len - contentBits v len) false ++
        bytesMsbFirst padByte ((8 * P.data v - unpaddedBits P v len + 7) / 8)) := by
  have hzeros : toByteBoundary (withTerminator (8 * P.data v) (streamContent v len pay)) =
      streamContent v len pay ++ List.replicate (unpaddedBits P v len - contentBits v len) false := by
    rw [toByteBoundary, withTerminator, List.append_assoc, List.replicate_append_replicate, List.length_append,
      List.length_replicate, length_streamContent]
    congr 2
    rw [unpaddedBits]
    omega
  have hlength : contentBits v len + (unpaddedBits P v len - contentBits v len) = unpaddedBits P v len := by
    rw [unpaddedBits]
    omega
  rw [bitStream, hzeros, withPadBytes, List.length_append, List.length_replicate, length_streamContent, hlength,
    List.append_assoc]
  rfl

/-- A content that fits the bit budget, which is whole bytes, fits it with the zero bits after it. -/
theorem unpaddedBits_bounds {P : Params} {v len : Nat} (hfit : contentBits v len ≤ 8 * P.data v) :
    contentBits v len ≤ unpaddedBits P v len ∧ unpaddedBits P v len ≤ 8 * P.data v ∧
      unpaddedBits P v len % 8 = 0 := by
  rw [unpaddedBits]
  omega

/-- The pad bytes fill the budget exactly (rule R112, item 6). -/
theorem length_bitStream {P : Params} {v len : Nat} (hfit : contentBits v len ≤ 8 * P.data v) (pay : Memory Char16) :
    (bitStream P v len pay).length = 8 * P.data v := by
  obtain ⟨hcontent, hbudget, hwhole⟩ := unpaddedBits_bounds hfit
  simp only [bitStream_eq_append, List.length_append, length_streamContent, List.length_replicate,
    length_bytesMsbFirst]
  omega

/-! ### The bits of the stream -/

variable {P : Params} {v len n : Nat} {pay : Memory Char16}

/-- The closed form in the lengths named above. -/
theorem streamBit_eq (P : Params) (v len : Nat) (pay : Memory Char16) (n : Nat) :
    streamBit P v len pay n =
      if n < 4 then decide (n = 1)
      else if n < 4 + lbits v then len.testBit (4 + lbits v - 1 - n)
      else if n < contentBits v len then
        (payloadByte pay ((n - (4 + lbits v)) / 8)).getLsbD (7 - (n - (4 + lbits v)) % 8)
      else if n < unpaddedBits P v len then false
      else (padByte ((n - unpaddedBits P v len) / 8)).getLsbD (7 - (n - unpaddedBits P v len) % 8) := by
  have hpayload : ∀ k j, (payloadByte pay k).getLsbD (7 - j) = (Memory.read pay k).getLsbD (7 - j) := fun k j => by
    rw [payloadByte, BitVec.getLsbD_setWidth, decide_eq_true (by omega), Bool.true_and]
  simp only [hpayload, padByte]
  rw [apply_ite (BitVec.getLsbD · _)]
  rfl

theorem streamBit_of_mode (hn : n < 4) : streamBit P v len pay n = decide (n = 1) := by
  rw [streamBit_eq, if_pos hn]

theorem streamBit_of_length (h4 : 4 ≤ n) (hn : n < 4 + lbits v) :
    streamBit P v len pay n = len.testBit (4 + lbits v - 1 - n) := by
  rw [streamBit_eq, if_neg (by omega), if_pos hn]

/-- The bits of the three indicators (rule R112, items 1 to 3). -/
theorem getElem?_streamContent (P : Params) (hn : n < contentBits v len) :
    (streamContent v len pay)[n]? = some (streamBit P v len pay n) := by
  rw [streamContent_eq_append, streamBit_eq, if_pos hn]
  split
  · next hmode =>
    have hbits : ∀ m < 4, Nat.testBit 4 (4 - 1 - m) = decide (m = 1) := by decide
    rw [List.getElem?_append_left (by simpa using hmode), getElem?_bitsMsbFirst _ hmode, hbits n hmode]
  · next hmode =>
    rw [List.getElem?_append_right (by simpa using hmode), length_bitsMsbFirst]
    split
    · next hlength =>
      rw [List.getElem?_append_left (by simp; omega), getElem?_bitsMsbFirst _ (by omega),
        show lbits v - 1 - (n - 4) = 4 + lbits v - 1 - n by omega]
    · next hlength =>
      rw [contentBits] at hn
      rw [List.getElem?_append_right (by simp; omega), length_bitsMsbFirst, Nat.sub_sub,
        getElem?_bytesMsbFirst _ (by omega)]

/-- Every bit of a stream that fits its budget, in closed form (rule R112). -/
theorem getElem?_bitStream (hfit : contentBits v len ≤ 8 * P.data v) (hn : n < 8 * P.data v) :
    (bitStream P v len pay)[n]? = some (streamBit P v len pay n) := by
  obtain ⟨hcontent, hbudget, hwhole⟩ := unpaddedBits_bounds hfit
  rw [bitStream_eq_append]
  by_cases hc : n < contentBits v len
  · rw [List.getElem?_append_left (by simpa using hc), getElem?_streamContent P hc]
  have hhead : 4 + lbits v ≤ contentBits v len := Nat.le_add_right _ _
  rw [List.getElem?_append_right (by simpa using hc), length_streamContent, streamBit_eq, if_neg (by omega),
    if_neg (by omega), if_neg hc]
  split
  · next hzero =>
    rw [List.getElem?_append_left (by simp; omega), List.getElem?_replicate, if_pos (by omega)]
  · next hpad =>
    rw [List.getElem?_append_right (by simp; omega), List.length_replicate,
      show n - contentBits v len - (unpaddedBits P v len - contentBits v len) = n - unpaddedBits P v len by omega,
      getElem?_bytesMsbFirst _ (by omega)]

/-! ### The bytes PACK writes -/

/-- Bits read as a number, least significant first. -/
theorem testBit_foldr_bits (l : List Bool) (i : Nat) :
    (l.foldr (fun (b : Bool) x => 2 * x + b.toNat) 0).testBit i = l.getD i false := by
  induction l generalizing i with
  | nil => simp
  | cons b l ih =>
    rw [List.foldr_cons, ← Nat.bit_val]
    cases i with
    | zero => simp
    | succ i => simpa [Nat.testBit_bit_succ] using ih i

/-- "Bit 7 of CW[k] is stream bit 8k" (rules R44, R113). -/
theorem getLsbD_sliceByte {stream : List Bool} {k j : Nat} (hk : 8 * k + 8 ≤ stream.length) (hj : j < 8) :
    (sliceByte stream k).getLsbD (7 - j) = stream.getD (8 * k + j) false := by
  have hlength : ((stream.drop (8 * k)).take 8).length = 8 := by
    rw [List.length_take, List.length_drop]
    omega
  rw [sliceByte, List.foldl_eq_foldr_reverse, BitVec.getLsbD_ofNat, testBit_foldr_bits, decide_eq_true (by omega),
    Bool.true_and, List.getD_eq_getElem?_getD, List.getElem?_reverse (by omega), hlength,
    show 8 - 1 - (7 - j) = j by omega, List.getElem?_take_of_lt hj, List.getElem?_drop, List.getD_eq_getElem?_getD]

theorem read_packEffect_cw (P : Params) (s : State) (k : Nat) :
    Memory.read (packEffect P s).cw k =
      if k < P.data s.ver.toNat then sliceByte (bitStream P s.ver.toNat s.len.toNat s.pay) k
      else Memory.read s.cw k := by
  simp only [packEffect, Memory.read_foldl_write, List.mem_range]

/-- The data segment after PACK, bit by bit (rules R112, R113). -/
theorem getLsbD_packEffect_cw {s : State} {k j : Nat}
    (hfit : contentBits s.ver.toNat s.len.toNat ≤ 8 * P.data s.ver.toNat)
    (hk : k < P.data s.ver.toNat) (hj : j < 8) :
    (Memory.read (packEffect P s).cw k).getLsbD (7 - j) =
      streamBit P s.ver.toNat s.len.toNat s.pay (8 * k + j) := by
  rw [read_packEffect_cw, if_pos hk, getLsbD_sliceByte (by rw [length_bitStream hfit]; omega) hj,
    List.getD_eq_getElem?_getD, getElem?_bitStream hfit (by omega), Option.getD_some]

end Machine
end Sys2Proof
end

section
/-! PACK (rule R113) for every instance that meets rule R7 and for the default one, and the head of the codewords that
PACK and RSENC leave (rule R116). -/

namespace Sys2Proof.Machine

open Sys2Proof.Claim

variable {P : Params} {s : State}

/-- A payload within the capacity makes a content within the bit budget (rule R7, P3). -/
theorem contentBits_le {v len : Nat} (hP : P.ok = true) (h1 : 1 ≤ v) (h10 : v ≤ 10) (hlen : len ≤ P.cap v) :
    contentBits v len ≤ 8 * P.data v := by
  have := Params.budget_le hP h1 h10
  rw [contentBits]
  omega

theorem packEffect_eq (P : Params) (s : State) :
    packEffect P s = { s with cw := (packEffect P s).cw, chtrunc := truncates s } := by
  rw [← anyTruncated_eq_truncates]
  rfl

/-- PACK of the core with parameters P, once its two tests are passed. -/
theorem execOf_pack (hs : Ready s) (hv : s.verv = true) (hlen : s.len.toNat ≤ P.cap s.ver.toNat) :
    execOf P .pack s = .next (packEffect P s) :=
  command_of_no_test hs (by simp [above, hv, hlen])

/-- Settles O37: the pieces of the stream fill the budget, and PACK cuts it into the bytes of the data segment. -/
theorem streamFillsTheBudgetForEveryInstance : Obligations.StreamFillsTheBudgetForEveryInstance := by
  intro P hP
  refine ⟨fun v len pay h1 h10 hlen => length_bitStream (contentBits_le hP h1 h10 hlen) pay,
    fun s hs hregs hv => ⟨fun hlen => ?_, fun hlen => ?_⟩⟩
  · exact command_of_test (x := (above s.len (P.cap s.ver.toNat), .capacity)) hs (by simp [above, hv, hlen])
  · have hfit := contentBits_le hP (one_le_ver_of_registersOk hregs hv) (ver_le_of_registersOk hregs) hlen
    exact ⟨packEffect P s, execOf_pack hs hv hlen, packEffect_eq P s,
      fun k j hk hj => getLsbD_packEffect_cw hfit hk hj,
      fun k hk => (read_packEffect_cw P s k).trans (if_neg (Nat.not_lt.2 hk))⟩

/-- Settles O36: the default instance meets rule R7; without a version the first test of PACK holds. -/
theorem packWritesTheBitStream : Obligations.PackWritesTheBitStream := by
  obtain ⟨-, hpack⟩ := streamFillsTheBudgetForEveryInstance params params_ok
  rw [execOf_params] at hpack
  refine ⟨rfl, fun s hs hregs => ⟨fun hv => ?_, fun hv => ?_, fun hv => ?_⟩⟩
  · exact raises_of_first_test (i := .pack) nofun hs rfl (by simp [hv])
  · exact (hpack s hs hregs hv).1
  · exact (hpack s hs hregs hv).2

/-! ### The head of the codewords -/

/-- The mode indicator is the high half of CW[0] (rule R116). -/
theorem mode_packEffect (hfit : contentBits s.ver.toNat s.len.toNat ≤ 8 * P.data s.ver.toNat) :
    (Memory.read (packEffect P s).cw 0).extractLsb' 4 4 = 0b0100#4 := by
  have hdata : 0 < P.data s.ver.toNat := by
    rw [contentBits] at hfit
    omega
  have hmode : ∀ i < 4, decide (8 * 0 + (3 - i) = 1) = (0b0100#4).getLsbD i := by decide
  refine BitVec.eq_of_getLsbD_eq fun i hi => ?_
  rw [BitVec.getLsbD_extractLsb', decide_eq_true hi, Bool.true_and, show 4 + i = 7 - (3 - i) by omega,
    getLsbD_packEffect_cw hfit hdata (by omega), streamBit_of_mode (by omega), hmode i hi]

/-- Bit j of the length field stands in the codeword k and at the bit i that its place in the stream gives. -/
theorem length_packEffect (hfit : contentBits s.ver.toNat s.len.toNat ≤ 8 * P.data s.ver.toNat) {k i j : Nat}
    (hi : i < 8) (hj : j < lbits s.ver.toNat) (hplace : 8 * k + 4 + j = lbits s.ver.toNat + i) :
    (Memory.read (packEffect P s).cw k).getLsbD i = s.len.toNat.testBit j := by
  have hk : k < P.data s.ver.toNat := by
    rw [contentBits] at hfit
    omega
  rw [show i = 7 - (7 - i) by omega, getLsbD_packEffect_cw hfit hk (by omega),
    streamBit_of_length (by omega) (by omega), show 4 + lbits s.ver.toNat - 1 - (8 * k + (7 - i)) = j by omega]

/-- A number whose low bits are those of a word. -/
theorem testBit_two_pow_mul_add_toNat {w : Nat} (n : Nat) (x : BitVec w) (j : Nat) :
    (2 ^ w * n + x.toNat).testBit j = if j < w then x.getLsbD j else n.testBit (j - w) := by
  rw [Nat.testBit_two_pow_mul_add _ x.isLt, BitVec.testBit_toNat]

/-- A length field of 8 bits: the low half of CW[0] and the high half of CW[1] (rule R116). -/
theorem shortLength_packEffect (hfit : contentBits s.ver.toNat s.len.toNat ≤ 8 * P.data s.ver.toNat)
    (hv : s.ver.toNat ≤ 9) :
    16 * ((Memory.read (packEffect P s).cw 0).extractLsb' 0 4).toNat +
      ((Memory.read (packEffect P s).cw 1).extractLsb' 4 4).toNat = s.len.toNat % 256 := by
  have hwidth : lbits s.ver.toNat = 8 := if_pos hv
  refine Nat.eq_of_testBit_eq fun j => ?_
  change Nat.testBit (2 ^ 4 * _ + _) j = Nat.testBit (_ % 2 ^ 8) j
  rw [testBit_two_pow_mul_add_toNat, Nat.testBit_mod_two_pow, BitVec.testBit_toNat, BitVec.getLsbD_extractLsb',
    BitVec.getLsbD_extractLsb']
  by_cases h4 : j < 4
  · rw [if_pos h4, length_packEffect hfit (j := j) (by omega) (by omega) (by omega)]
    simp [h4, show j < 8 by omega]
  · rw [if_neg h4]
    by_cases h8 : j < 8
    · rw [length_packEffect hfit (j := j) (by omega) (by omega) (by omega)]
      simp [h8, show j - 4 < 4 by omega]
    · simp [h8, show ¬ j - 4 < 4 by omega]

/-- A length field of 16 bits: the low half of CW[0], CW[1], and the high half of CW[2] (rule R116). -/
theorem longLength_packEffect (hfit : contentBits s.ver.toNat s.len.toNat ≤ 8 * P.data s.ver.toNat)
    (hv : s.ver.toNat = 10) :
    4096 * ((Memory.read (packEffect P s).cw 0).extractLsb' 0 4).toNat +
      16 * (Memory.read (packEffect P s).cw 1).toNat +
      ((Memory.read (packEffect P s).cw 2).extractLsb' 4 4).toNat = s.len.toNat := by
  have hwidth : lbits s.ver.toNat = 16 := if_neg (by omega)
  refine Nat.eq_of_testBit_eq fun j => ?_
  have hsplit : ∀ x y z : Nat, 4096 * x + 16 * y + z = 2 ^ 4 * (2 ^ 8 * x + y) + z := by omega
  rw [hsplit, testBit_two_pow_mul_add_toNat, testBit_two_pow_mul_add_toNat, BitVec.testBit_toNat,
    BitVec.getLsbD_extractLsb', BitVec.getLsbD_extractLsb']
  by_cases h4 : j < 4
  · rw [if_pos h4, length_packEffect hfit (j := j) (by omega) (by omega) (by omega)]
    simp [h4]
  by_cases h12 : j - 4 < 8
  · rw [if_neg h4, if_pos h12, length_packEffect hfit (j := j) (by omega) (by omega) (by omega)]
  rw [if_neg h4, if_neg h12]
  by_cases h16 : j < 16
  · rw [length_packEffect hfit (j := j) (by omega) (by omega) (by omega)]
    simp [show j - 4 - 8 < 4 by omega]
  · rw [BitVec.testBit_toNat, BitVec.getLsbD_of_ge _ _ (Nat.not_lt.1 h16)]
    simp [show ¬ j - 4 - 8 < 4 by omega]

/-- RSENC leaves the data segment alone (rule R96). -/
theorem read_rsencEffect_cw_of_lt (hn : P.ecc s.ver.toNat ≤ 255) {k : Nat} (hk : k < P.data s.ver.toNat) :
    Memory.read (rsencEffect P s).cw k = Memory.read s.cw k := by
  rw [rsencEffect_eq P hn]
  exact read_storeCheckBytes_of_not_check (.inl hk)

/-- Settles O38: RSENC keeps the data bytes, and the head of the stream lies in them whatever follows it. -/
theorem packedHeadHoldsModeAndLength : Obligations.PackedHeadHoldsModeAndLength := by
  intro s hs hregs ht hv hlen
  have h1 := one_le_ver_of_registersOk hregs hv
  have h10 := ver_le_of_registersOk hregs
  have hfit := contentBits_le params_ok h1 h10 hlen
  refine ⟨(Params.total_eq params_ok h1 h10).symm, rsencEffect params (packEffect params s), ?_, ?_⟩
  · have hpack : exec .pack s = .next (packEffect params s) := by
      rw [← execOf_params]
      exact execOf_pack hs hv hlen
    simp only [run, hpack, exec_rsenc (s := packEffect params s) hs ht hv]
  · have hkeep : ∀ k, 8 * k < 4 + lbits s.ver.toNat →
        Memory.read (rsencEffect params (packEffect params s)).cw k = Memory.read (packEffect params s).cw k := by
      intro k hk
      rw [contentBits] at hfit
      exact read_rsencEffect_cw_of_lt (s := packEffect params s) (Params.ecc_bounds params_ok h1 h10).2
        (show k < params.data s.ver.toNat by omega)
    have hlow : 8 ≤ lbits s.ver.toNat := by
      rw [lbits]
      split <;> omega
    rw [hkeep 0 (by omega), hkeep 1 (by omega)]
    refine ⟨mode_packEffect hfit, shortLength_packEffect hfit, fun h => ?_⟩
    have hwidth : lbits s.ver.toNat = 16 := if_neg (by omega)
    rw [hkeep 2 (by omega)]
    exact longLength_packEffect hfit h

end Sys2Proof.Machine
end

section
/-! The module-matrix builder (rules R126 to R134): what every stamp leaves in every cell, the skeleton they add up to,
and the commands MBUILD and MRD. -/

namespace Sys2Proof.Machine

open Sys2Proof.Claim

section
variable {n r c : Nat} (mat : Memory MCell)

/-! ### Single cells -/

/-- Two cells with a legal column have one index exactly if they are one cell. -/
theorem cellIndex_eq_iff {r' c' : Nat} (hc : c < Config.matDim) (hc' : c' < Config.matDim) :
    cellIndex r' c' = cellIndex r c ↔ r' = r ∧ c' = c :=
  ⟨cellIndex_inj hc' hc, fun ⟨hr, hc⟩ => hr ▸ hc ▸ rfl⟩

/-- A put reaches one cell. -/
theorem cellAt_putCell_eq (hc : c < Config.matDim) {r' c' : Nat} (hc' : c' < Config.matDim) (x : MCell) :
    cellAt (putCell mat r' c' x) r c = if r' = r ∧ c' = c then x else cellAt mat r c := by
  simp only [cellAt_putCell, eq_comm (a := cellIndex r c), cellIndex_eq_iff hc hc']

/-- A claim reaches one cell, and only an unset one. -/
theorem cellAt_claimCell (hc : c < Config.matDim) {r' c' : Nat} (hc' : c' < Config.matDim) (x : MCell) :
    cellAt (claimCell mat r' c' x) r c =
      if (r' = r ∧ c' = c) ∧ (cellAt mat r c).cls = .U then x else cellAt mat r c := by
  unfold claimCell
  by_cases hcell : r' = r ∧ c' = c
  · obtain ⟨rfl, rfl⟩ := hcell
    split <;> simp_all [cellAt_putCell_eq]
  · rw [if_neg (c := _ ∧ (cellAt mat r c).cls = .U) (fun h => hcell h.1)]
    split
    · rw [cellAt_putCell_eq mat hc hc', if_neg hcell]
    · rfl

/-! ### Loops of stamps -/

/-- A loop whose turns leave a cell alone or, if it is still free, give it one and the same value. -/
theorem cellAt_foldl {β : Type} {l : List β} {turn : Memory MCell → β → Memory MCell} (hit : β → Prop)
    (free : MCell → Prop) [DecidablePred hit] [DecidablePred free] {x : MCell}
    (hturn : ∀ m, ∀ b ∈ l, cellAt (turn m b) r c =
      if hit b ∧ free (cellAt m r c) then x else cellAt m r c) :
    cellAt (l.foldl turn mat) r c =
      if (∃ b ∈ l, hit b) ∧ free (cellAt mat r c) then x else cellAt mat r c := by
  induction l generalizing mat with
  | nil => simp
  | cons b l ih =>
    rw [List.foldl_cons, ih _ fun m b hb => hturn m b (List.mem_cons_of_mem _ hb), hturn mat b List.mem_cons_self]
    by_cases hfree : free (cellAt mat r c)
    · by_cases hb : hit b <;> simp [hb, hfree]
    · simp [hfree]

@[simp] theorem mem_offsets {lo hi dr dc : Int} :
    (dr, dc) ∈ offsets lo hi ↔ (lo ≤ dr ∧ dr ≤ hi) ∧ (lo ≤ dc ∧ dc ≤ hi) := by
  have hline : ∀ d : Int,
      d ∈ (List.range (hi - lo + 1).toNat).map (fun i => lo + Int.ofNat i) ↔ lo ≤ d ∧ d ≤ hi := by
    intro d
    simp only [List.mem_map, List.mem_range, Int.ofNat_eq_natCast]
    exact ⟨by rintro ⟨i, hi, rfl⟩; omega, fun h => ⟨(d - lo).toNat, by omega, by omega⟩⟩
  simp only [offsets, List.mem_flatMap, List.mem_map (f := fun dc => (_, dc)), Prod.mk.injEq, hline]
  exact ⟨by rintro ⟨_, hr, _, hc, rfl, rfl⟩; exact ⟨hr, hc⟩, fun ⟨hr, hc⟩ => ⟨dr, hr, dc, hc, rfl, rfl⟩⟩

/-- A stamp of the cells around (r0, c0), clipped to the grid (rules R128, R131). `put` is `putCell`, for which every
cell is free, or `claimCell`. -/
theorem cellAt_stamp (hn : n ≤ Config.matDim) {put : Memory MCell → Nat → Nat → MCell → Memory MCell}
    {free : MCell → Prop} [DecidablePred free]
    (hput : ∀ m r' c' x, c' < Config.matDim → cellAt (put m r' c' x) r c =
      if (r' = r ∧ c' = c) ∧ free (cellAt m r c) then x else cellAt m r c)
    (lo hi : Int) (r0 c0 : Nat) (x : Int → Int → MCell) :
    cellAt ((offsets lo hi).foldl (fun m d =>
        let r := Int.ofNat r0 + d.1
        let c := Int.ofNat c0 + d.2
        if 0 ≤ r ∧ r < Int.ofNat n ∧ 0 ≤ c ∧ c < Int.ofNat n then put m r.toNat c.toNat (x d.1 d.2) else m) mat) r c =
      if ((r < n ∧ c < n) ∧ (r0 + lo ≤ r ∧ r ≤ r0 + hi) ∧ (c0 + lo ≤ c ∧ c ≤ c0 + hi)) ∧ free (cellAt mat r c)
      then x (r - r0) (c - c0) else cellAt mat r c := by
  rw [cellAt_foldl mat (fun d : Int × Int => (r < n ∧ c < n) ∧ (r0 + d.1 = r ∧ c0 + d.2 = c)) free
    (x := x (r - r0) (c - c0))]
  · refine if_congr (and_congr_left' ⟨?_, fun h => ?_⟩) rfl rfl
    · rintro ⟨⟨dr, dc⟩, hd, hgrid, hr, hc⟩
      rw [mem_offsets] at hd
      dsimp only at hr hc
      exact ⟨hgrid, by omega, by omega⟩
    · obtain ⟨hgrid, hr, hc⟩ := h
      exact ⟨(r - r0, c - c0), mem_offsets.2 ⟨by omega, by omega⟩, hgrid, by dsimp only; omega⟩
  · rintro m ⟨dr, dc⟩ -
    simp only [Int.ofNat_eq_natCast]
    by_cases hgrid : 0 ≤ r0 + dr ∧ r0 + dr < n ∧ 0 ≤ c0 + dc ∧ c0 + dc < n
    · rw [if_pos hgrid, hput _ _ _ _ (by omega)]
      by_cases hcell : r0 + dr = r ∧ c0 + dc = c
      · have hdr : (r : Int) - r0 = dr := by omega
        have hdc : (c : Int) - c0 = dc := by omega
        rw [hdr, hdc]
        exact if_congr (and_congr_left' ⟨fun _ => ⟨by omega, hcell⟩, fun _ => by omega⟩) rfl rfl
      · rw [if_neg (fun h => hcell (by omega)), if_neg (fun h => hcell h.1.2)]
    · rw [if_neg hgrid, if_neg (fun h => hgrid (by omega))]

/-! ### The stamps of the skeleton -/

/-- Step 1 of rule R126, on every cell of the store. -/
theorem cellAt_clearSquare_eq (hn : n ≤ Config.matDim) (hc : c < Config.matDim) :
    cellAt (clearSquare n mat) r c = if r < n ∧ c < n then ⟨.U, false⟩ else cellAt mat r c := by
  split
  · next h => exact cellAt_clearSquare mat h.1 h.2
  · next h =>
    refine Memory.read_foldl_write_of_not_mem (square n) (fun p => cellIndex p.1 p.2) _ mat fun ⟨r', c'⟩ hp heq => h ?_
    rw [mem_square] at hp
    obtain ⟨rfl, rfl⟩ := (cellIndex_eq_iff hc (by omega)).1 heq
    exact hp

/-- A finder module by its offset is the one by its place (rules R127, R128). -/
theorem finderModule_eq_finderAt (r0 c0 : Nat) : finderModule (r - r0) (c - c0) = finderAt r0 c0 r c := by
  rw [Bool.eq_iff_iff]
  simp only [finderModule, finderAt, finderValue, Bool.and_eq_true, Bool.or_eq_true, decide_eq_true_eq]
  omega

/-- Rules R127, R128: a finder with its separator, within the grid. -/
theorem cellAt_stampFinder (hn : n ≤ Config.matDim) (hc : c < Config.matDim) (r0 c0 : Nat) :
    cellAt (stampFinder n r0 c0 mat) r c =
      if (r < n ∧ c < n) ∧ (r0 ≤ r + 1 ∧ r ≤ r0 + 7) ∧ (c0 ≤ c + 1 ∧ c ≤ c0 + 7) then ⟨.S, finderAt r0 c0 r c⟩
      else cellAt mat r c := by
  rw [stampFinder, cellAt_stamp mat hn (put := putCell) (free := fun _ => True)
    (fun m r' c' x hc' => by rw [cellAt_putCell_eq m hc hc']; simp only [and_true])
    (-1) 7 r0 c0 (fun dr dc => ⟨.S, finderModule dr dc⟩), finderModule_eq_finderAt]
  exact if_congr ((and_iff_left trivial).trans (by omega)) rfl rfl

/-- Rule R129: the timing lines take what is still unset in row 6 and in column 6. -/
theorem cellAt_stampTiming (hn : n ≤ Config.matDim) (h6 : 6 < n) (hc : c < Config.matDim) :
    cellAt (stampTiming n mat) r c =
      if ((r < n ∧ c < n) ∧ (r = 6 ∨ c = 6)) ∧ (cellAt mat r c).cls = .U then
        ⟨.S, decide ((if r = 6 then c else r) % 2 = 0)⟩
      else cellAt mat r c := by
  rw [stampTiming, cellAt_foldl mat (fun i => r = 6 ∧ c = i ∨ r = i ∧ c = 6) (fun x => x.cls = .U)
    (x := ⟨.S, decide ((if r = 6 then c else r) % 2 = 0)⟩)]
  · refine if_congr (and_congr_left' ⟨?_, fun h => ⟨if r = 6 then c else r, ?_, ?_⟩⟩) rfl rfl
    · rintro ⟨i, hi, h⟩
      rw [List.mem_range] at hi
      omega
    · rw [List.mem_range]
      split <;> omega
    · split <;> omega
  · intro m i hi
    rw [List.mem_range] at hi
    dsimp only
    rw [cellAt_claimCell _ hc (by omega), cellAt_claimCell _ hc (by omega)]
    by_cases hrow : r = 6 ∧ c = i
    · obtain ⟨rfl, rfl⟩ := hrow
      by_cases hU : (cellAt m 6 c).cls = .U <;> simp [hU]
    · by_cases hcol : r = i ∧ c = 6
      · obtain ⟨rfl, rfl⟩ := hcol
        have : r ≠ 6 := by omega
        have : 6 ≠ r := by omega
        by_cases hU : (cellAt m r 6).cls = .U <;> simp [*]
      · rw [if_neg (fun h => hcol (by omega)), if_neg (fun h => hrow (by omega)), if_neg (by tauto)]

/-- Rule R131: the alignment pattern takes what is still unset around (p, p). -/
theorem cellAt_stampAlign (hn : n ≤ Config.matDim) (hc : c < Config.matDim) {p : Nat} (hp : 2 ≤ p) :
    cellAt (stampAlign n p p mat) r c =
      if ((r < n ∧ c < n) ∧ (p - 2 ≤ r ∧ r ≤ p + 2) ∧ (p - 2 ≤ c ∧ c ≤ p + 2)) ∧ (cellAt mat r c).cls = .U then
        ⟨.S, decide ((r = p ∧ c = p) ∨ r = p - 2 ∨ r = p + 2 ∨ c = p - 2 ∨ c = p + 2)⟩
      else cellAt mat r c := by
  rw [stampAlign, cellAt_stamp mat hn (put := claimCell) (free := fun x => x.cls = .U)
    (fun m r' c' x hc' => cellAt_claimCell m hc hc' x)
    (-2) 2 p p (fun dr dc => ⟨.S, !decide (max dr.natAbs dc.natAbs = 1)⟩)]
  refine ite_congr (propext (and_congr_left' (by omega))) (fun h => ?_) fun _ => rfl
  rw [← decide_not]
  exact congrArg (MCell.mk .S) (decide_eq_decide.2 (by omega))

/-- Rules R132, R157: the cells of the strips, each with the bit it shows. -/
theorem mem_formatCells (hn : 17 ≤ n) {i : Nat} :
    (i, r, c) ∈ formatCells n ↔ (r < n ∧ c < n) ∧ isFormatCell n r c = true ∧ i = formatIndex n r c := by
  simp only [formatCells, List.mem_flatMap, mem_upTo, List.mem_cons, List.not_mem_nil, or_false, Prod.mk.injEq,
    isFormatCell, Bool.or_eq_true, Bool.and_eq_true, decide_eq_true_eq]
  constructor
  · rintro ⟨i, hi, ⟨rfl, h⟩ | ⟨rfl, h⟩⟩
    · revert h
      unfold formatPos1 formatIndex
      split_ifs <;> (rintro ⟨⟩ ; omega)
    · revert h
      unfold formatPos2 formatIndex
      split_ifs <;> (rintro ⟨⟩ ; omega)
  · rintro ⟨hgrid, hformat, rfl⟩
    by_cases hsecond : r = 8 ∧ n - 8 ≤ c ∨ c = 8 ∧ n - 7 ≤ r
    · refine ⟨_, ?_, .inr ⟨rfl, ?_⟩⟩
      · unfold formatIndex
        split_ifs <;> omega
      · rcases hsecond with hrow | hcol
        · rw [formatIndex, if_pos hrow, formatPos2, if_pos (by omega), Prod.mk.injEq]
          omega
        · rw [formatIndex, if_neg (by omega), if_pos hcol, formatPos2, if_neg (by omega), Prod.mk.injEq]
          omega
    · refine ⟨_, ?_, .inl ⟨rfl, ?_⟩⟩ <;> unfold formatIndex
      · split_ifs <;> omega
      · unfold formatPos1
        split_ifs <;> rw [Prod.mk.injEq] <;> omega

/-- Rule R132: the strips take what is still unset of the format cells. -/
theorem cellAt_reserveFormat (hn : n ≤ Config.matDim) (h17 : 17 ≤ n) (hc : c < Config.matDim) :
    cellAt (reserveFormat n mat) r c =
      if ((r < n ∧ c < n) ∧ isFormatCell n r c = true) ∧ (cellAt mat r c).cls = .U then ⟨.R, false⟩
      else cellAt mat r c := by
  rw [reserveFormat, cellAt_foldl mat (fun e => e.2 = (r, c)) (fun x => x.cls = .U) (x := ⟨.R, false⟩)]
  · refine if_congr (and_congr_left' ⟨?_, fun h => ?_⟩) rfl rfl
    · rintro ⟨⟨i, _⟩, he, rfl⟩
      obtain ⟨hgrid, hformat, -⟩ := (mem_formatCells h17).1 he
      exact ⟨hgrid, hformat⟩
    · exact ⟨_, (mem_formatCells h17).2 ⟨h.1, h.2, rfl⟩, rfl⟩
  · rintro m ⟨i, r', c'⟩ he
    obtain ⟨⟨-, hc'⟩, -⟩ := (mem_formatCells h17).1 he
    simp only [cellAt_claimCell m hc (hc'.trans_le hn), Prod.mk.injEq]

/-! ### The skeleton -/

/-- The three finders with their separators in a symbol of side n (rules R126 to R128), over a cell that holds x. -/
def finderCell (n r c : Nat) (x : MCell) : MCell :=
  if r ≤ 7 ∧ c ≤ 7 then ⟨.S, finderAt 0 0 r c⟩
  else if r ≤ 7 ∧ n - 8 ≤ c then ⟨.S, finderAt 0 (n - 7) r c⟩
  else if n - 8 ≤ r ∧ c ≤ 7 then ⟨.S, finderAt (n - 7) 0 r c⟩
  else x

/-- The parts of the skeleton that every version has (rules R127 to R130), over a cell that holds x. -/
def structuralCell (n r c : Nat) (x : MCell) : MCell :=
  finderCell n r c
    (if r = 6 then ⟨.S, decide (c % 2 = 0)⟩
    else if c = 6 then ⟨.S, decide (r % 2 = 0)⟩
    else if r = n - 8 ∧ c = 8 then ⟨.S, true⟩
    else x)

/-- A claim over the finders falls to the cell below them: a structural cell is not unset. -/
theorem claim_finderCell (p : Prop) [Decidable p] (x y : MCell) :
    (if p ∧ (finderCell n r c x).cls = .U then y else finderCell n r c x) =
      finderCell n r c (if p ∧ x.cls = .U then y else x) := by
  unfold finderCell
  split_ifs <;> simp_all

/-- The same over all the parts that every version has. -/
theorem claim_structuralCell (p : Prop) [Decidable p] (x y : MCell) :
    (if p ∧ (structuralCell n r c x).cls = .U then y else structuralCell n r c x) =
      structuralCell n r c (if p ∧ x.cls = .U then y else x) := by
  unfold structuralCell
  rw [claim_finderCell]
  congr 1
  split_ifs <;> simp_all

theorem skeletonCell_eq_structuralCell (v : Nat) :
    skeletonCell v r c = structuralCell (side v) r c
      (if 2 ≤ v ∧ 4 * v + 10 - 2 ≤ r ∧ r ≤ 4 * v + 10 + 2 ∧ 4 * v + 10 - 2 ≤ c ∧ c ≤ 4 * v + 10 + 2 then
        ⟨.S, decide ((r = 4 * v + 10 ∧ c = 4 * v + 10) ∨ r = 4 * v + 10 - 2 ∨ r = 4 * v + 10 + 2 ∨
          c = 4 * v + 10 - 2 ∨ c = 4 * v + 10 + 2)⟩
      else if isFormatCell (side v) r c then ⟨.R, false⟩
      else ⟨.U, false⟩) := rfl

/-- Steps 1 and 2 of rule R126. -/
theorem cellAt_finders (hn : n ≤ Config.matDim) (h17 : 17 ≤ n) (hr : r < n) (hc : c < n) :
    cellAt (stampFinder n (n - 7) 0 (stampFinder n 0 (n - 7) (stampFinder n 0 0 (clearSquare n mat)))) r c =
      finderCell n r c ⟨.U, false⟩ := by
  have hc' := hc.trans_le hn
  rw [cellAt_stampFinder _ hn hc', cellAt_stampFinder _ hn hc', cellAt_stampFinder _ hn hc',
    cellAt_clearSquare mat hr hc, finderCell]
  by_cases htopLeft : r ≤ 7 ∧ c ≤ 7
  · rw [if_pos htopLeft, if_neg (by omega), if_neg (by omega), if_pos (by omega)]
  rw [if_neg htopLeft]
  by_cases htopRight : r ≤ 7 ∧ n - 8 ≤ c
  · rw [if_pos htopRight, if_neg (by omega), if_pos (by omega)]
  rw [if_neg htopRight]
  by_cases hbottomLeft : n - 8 ≤ r ∧ c ≤ 7
  · rw [if_pos hbottomLeft, if_pos (by omega)]
  · rw [if_neg hbottomLeft, if_neg (by omega), if_neg (by omega), if_neg (by omega)]

/-- Steps 1 to 4 of rule R126. -/
theorem cellAt_structural (hn : n ≤ Config.matDim) (h17 : 17 ≤ n) (hr : r < n) (hc : c < n) :
    cellAt (stampDark n (stampTiming n
      (stampFinder n (n - 7) 0 (stampFinder n 0 (n - 7) (stampFinder n 0 0 (clearSquare n mat)))))) r c =
      structuralCell n r c ⟨.U, false⟩ := by
  have hc' := hc.trans_le hn
  rw [stampDark, cellAt_putCell_eq _ hc' (by decide), cellAt_stampTiming _ hn (by omega) hc',
    cellAt_finders mat hn h17 hr hc, claim_finderCell, structuralCell]
  simp only [hr, hc, true_and, and_true]
  by_cases hdark : n - 8 = r ∧ 8 = c
  · obtain ⟨hrow, hcol⟩ := hdark
    rw [if_pos ⟨hrow, hcol⟩, finderCell, if_neg (by omega), if_neg (by omega), if_neg (by omega), if_neg (by omega),
      if_neg (by omega), if_pos ⟨hrow.symm, hcol.symm⟩]
  · rw [if_neg hdark, if_neg (c := r = n - 8 ∧ c = 8) (by omega)]
    by_cases hrow : r = 6
    · simp only [hrow, true_or, if_true]
    · simp only [hrow, false_or, if_false]

/-- Rules R126 to R132: the skeleton in the square. -/
theorem cellAt_buildSkeleton {v : Nat} (hn : side v ≤ Config.matDim) (hr : r < side v) (hc : c < side v) :
    cellAt (buildSkeleton params v mat) r c = skeletonCell v r c := by
  have h17 : 17 ≤ side v := Nat.le_add_right 17 _
  have hc' := hc.trans_le hn
  have halign : params.align v = 4 * v + 10 := rfl
  unfold buildSkeleton
  dsimp only
  rw [cellAt_reserveFormat _ hn h17 hc', apply_ite (fun m => cellAt m r c), cellAt_stampAlign _ hn hc' (by omega),
    cellAt_structural mat hn h17 hr hc, claim_structuralCell, ← apply_ite (structuralCell (side v) r c), ← ite_and,
    claim_structuralCell, skeletonCell_eq_structuralCell, halign]
  refine congrArg (structuralCell (side v) r c) ?_
  simp only [hr, hc, true_and, and_true, and_assoc]
  by_cases hpattern : 2 ≤ v ∧ 4 * v + 10 - 2 ≤ r ∧ r ≤ 4 * v + 10 + 2 ∧ 4 * v + 10 - 2 ≤ c ∧ c ≤ 4 * v + 10 + 2
  · simp only [if_pos hpattern, reduceCtorEq, and_false, if_false]
  · simp only [if_neg hpattern, and_true]

/-- Every step of rule R126 stays in the square. -/
theorem cellAt_buildSkeleton_of_not_square {v : Nat} (hn : side v ≤ Config.matDim) (hc : c < Config.matDim)
    (hout : ¬ (r < side v ∧ c < side v)) :
    cellAt (buildSkeleton params v mat) r c = cellAt mat r c := by
  have h17 : 17 ≤ side v := Nat.le_add_right 17 _
  have halign : params.align v = 4 * v + 10 := rfl
  have hdark : ¬ (side v - 8 = r ∧ 8 = c) := by omega
  unfold buildSkeleton
  dsimp only
  rw [cellAt_reserveFormat _ hn h17 hc, apply_ite (fun m => cellAt m r c), cellAt_stampAlign _ hn hc (by omega),
    stampDark, cellAt_putCell_eq _ hc (by decide), cellAt_stampTiming _ hn (by omega) hc,
    cellAt_stampFinder _ hn hc, cellAt_stampFinder _ hn hc, cellAt_stampFinder _ hn hc, cellAt_clearSquare_eq _ hn hc]
  simp only [hout, hdark, false_and, if_false, ite_self]

/-- Rule R126 for every index of the store: the cells of the square are those of the skeleton. -/
theorem read_buildSkeleton_of_not_square {v i : Nat} (hn : side v ≤ Config.matDim)
    (hout : ¬ ∃ r c, r < side v ∧ c < side v ∧ i = cellIndex r c) :
    Memory.read (buildSkeleton params v mat) i = Memory.read mat i := by
  have hindex : i = cellIndex (i / Config.matDim) (i % Config.matDim) := (Nat.div_add_mod i Config.matDim).symm
  have hcell := cellAt_buildSkeleton_of_not_square mat hn (Nat.mod_lt i (by decide)) fun ⟨hr, hc⟩ =>
    hout ⟨_, _, hr, hc, hindex⟩
  rwa [cellAt, cellAt, ← hindex] at hcell

end

/-! ### The commands -/

/-- Settles O39: the stamps cell by cell, each claim below the structural cells that were there before it. -/
theorem mbuildStampsTheSkeleton : Obligations.MbuildStampsTheSkeleton := by
  refine ⟨rfl, fun s hs hregs => ⟨fun hv => ?_, fun hv => ?_⟩⟩
  · exact raises_of_first_test (i := .mbuild) nofun hs rfl (by simp [hv])
  · obtain ⟨-, hn⟩ := size_bounds (ver_le_of_registersOk hregs)
    refine ⟨mbuildEffect params s, exec_of_passes (i := .mbuild) nofun hs (by simp [Passes, testsOf, hv]),
      by simp only [mbuildEffect], fun r c hr hc => ?_, fun i hout => ?_⟩
    · rw [mbuildEffect_mat]
      exact cellAt_buildSkeleton s.mat hn hr hc
    · rw [mbuildEffect_mat]
      exact read_buildSkeleton_of_not_square s.mat hn hout

/-- The word MRD returns for a cell (rule R134). -/
theorem setWidth_bits (x : MCell) : x.bits.setWidth 32 = BitVec.ofNat 32 (2 * x.cls.code.toNat + x.val.toNat) := by
  obtain ⟨cls, val⟩ := x
  cases cls <;> cases val <;> rfl

/-- Settles O40: the tests of MRD in their order, then the class code and the value of the cell. -/
theorem mrdReturnsClassAndValue : Obligations.MrdReturnsClassAndValue := by
  intro a b s hs
  refine ⟨?_, fun hm => ?_, fun hm hab => ?_, fun hm ha hb => ?_⟩
  · rw [encode, toNat_packWord]
    rfl
  · exact raises_of_first_test (i := .mrd a b) nofun hs rfl (by simp [hm])
  · change s.size ≤ a.toNat ∨ s.size ≤ b.toNat at hab
    exact exec_of_test (i := .mrd a b) (x := (atOrBeyond a s.size || atOrBeyond b s.size, .range)) nofun hs
      (by simp [testsOf, atOrBeyond, hm, hab])
  · change a.toNat < s.size at ha
    change b.toNat < s.size at hb
    have hpass : Passes (.mrd a b) s := by simp [Passes, testsOf, atOrBeyond, hm, ha, hb]
    rw [exec_of_passes (i := .mrd a b) nofun hs hpass, effectOf, setWidth_bits]
    cases (cellAt s.mat a.toNat b.toNat).cls <;> rfl

end Sys2Proof.Machine
end

section
/-! The visiting order (rule R141): the walk is the list of the cells `visited n k`, k from 0, and these are the cells
outside column 6, each at one k. A number k is taken apart into the column pair, the turn within it and the side. -/

namespace Sys2Proof.Machine

open Sys2Proof.Claim

variable {n m i b : Nat}

/-! ### The number of a cell -/

/-- The right-hand column of the m-th pair of a walk (rule R141). -/
def pairColumn (n m : Nat) : Nat := if n - 1 - 2 * m ≤ 6 then n - 2 - 2 * m else n - 1 - 2 * m

/-- The number of the cell that pair m visits at its turn i, on the right for b = 0 and on the left for b = 1. -/
def cellNumber (n m i b : Nat) : Nat := 2 * n * m + (2 * i + b)

theorem exists_cellNumber (hn : 0 < n) (k : Nat) : ∃ m i b, i < n ∧ b < 2 ∧ k = cellNumber n m i b := by
  have hrest : k % (2 * n) < 2 * n := Nat.mod_lt k (by omega)
  have hk := Nat.div_add_mod k (2 * n)
  refine ⟨k / (2 * n), k % (2 * n) / 2, k % (2 * n) % 2, by omega, by omega, ?_⟩
  rw [cellNumber]
  omega

/-- The symbol has (n − 1) / 2 column pairs of 2·n cells. -/
theorem cellNumber_lt_iff (hodd : n % 2 = 1) (hi : i < n) (hb : b < 2) :
    cellNumber n m i b < n * (n - 1) ↔ 2 * m + 1 < n := by
  obtain ⟨h, rfl⟩ : ∃ h, n = 2 * h + 1 := ⟨n / 2, by omega⟩
  have htotal : (2 * h + 1) * (2 * h + 1 - 1) = 2 * (2 * h + 1) * h := by rw [Nat.add_sub_cancel]; ring
  rw [htotal, cellNumber]
  constructor
  · intro hlt
    have := Nat.lt_of_mul_lt_mul_left ((Nat.le_add_right _ _).trans_lt hlt)
    omega
  · intro hm
    have := Nat.mul_le_mul_left (2 * (2 * h + 1)) (show m + 1 ≤ h by omega)
    rw [Nat.mul_add] at this
    omega

theorem visited_cellNumber (hi : i < n) (hb : b < 2) :
    visited n (cellNumber n m i b) = (if m % 2 = 0 then n - 1 - i else i, pairColumn n m - b) := by
  have hpair : cellNumber n m i b / (2 * n) = m := by
    rw [cellNumber, Nat.mul_add_div (by omega), Nat.div_eq_of_lt (by omega), Nat.add_zero]
  have hrest : cellNumber n m i b % (2 * n) = 2 * i + b := by
    rw [cellNumber, Nat.mul_add_mod, Nat.mod_eq_of_lt (by omega)]
  have hturn : (2 * i + b) / 2 = i := by omega
  have hside : cellNumber n m i b % 2 = b := by
    rw [cellNumber, Nat.mul_assoc]
    omega
  simp only [visited, pairColumn, hpair, hrest, hturn, hside]

/-! ### The walk as a list of numbered cells -/

/-- The next pair begins two columns to the left, and column 6 is skipped (rule R141). -/
theorem pairColumn_succ (hodd : n % 2 = 1) (m : Nat) :
    skipTiming (pairColumn n m - 2) = pairColumn n (m + 1) := by
  unfold skipTiming pairColumn
  split_ifs <;> omega

theorem pairCells_eq_map_visited (n m : Nat) :
    pairCells n (pairColumn n m) (decide (m % 2 = 0)) = (List.range' (2 * n * m) (2 * n)).map (visited n) := by
  have turns : ∀ j, j ≤ n → (List.range j).flatMap (fun i =>
      let row := if decide (m % 2 = 0) then n - 1 - i else i
      [(row, pairColumn n m), (row, pairColumn n m - 1)]) = (List.range' (2 * n * m) (2 * j)).map (visited n) := by
    intro j hj
    induction j with
    | zero => rfl
    | succ j ih =>
      have hright := visited_cellNumber (m := m) (i := j) (b := 0) (n := n) (by omega) (by omega)
      have hleft := visited_cellNumber (m := m) (i := j) (b := 1) (n := n) (by omega) (by omega)
      rw [List.range_succ, List.flatMap_append, ih (by omega), Nat.mul_add, ← List.range'_append_1, List.map_append]
      simp only [cellNumber, Nat.add_zero, ← Nat.add_assoc] at hright hleft
      simp [List.range'_succ, hright, hleft]
  exact turns n (Nat.le_refl n)

/-- The loop of rule R141 from its m-th turn on. -/
theorem walkFrom_eq_map_visited (h9 : 9 ≤ n) (hodd : n % 2 = 1) {fuel right : Nat}
    (hright : skipTiming right = pairColumn n m) (hfuel : n ≤ 2 * m + 1 + 2 * fuel) :
    walkFrom n fuel right (decide (m % 2 = 0)) =
      (List.range' (2 * n * m) (2 * n * ((n - 1) / 2 - m))).map (visited n) := by
  induction fuel generalizing m right with
  | zero =>
    have hend : (n - 1) / 2 - m = 0 := by omega
    simp [walkFrom, hend]
  | succ fuel ih =>
    have hzero : right = 0 ↔ n ≤ 2 * m + 1 := by
      unfold skipTiming pairColumn at hright
      split_ifs at hright <;> omega
    by_cases hend : n ≤ 2 * m + 1
    · have hpairs : (n - 1) / 2 - m = 0 := by omega
      simp [walkFrom, hzero.2 hend, hpairs]
    · have hturned : (!decide (m % 2 = 0)) = decide ((m + 1) % 2 = 0) := by
        rw [← decide_not, decide_eq_decide]
        omega
      have hpairs : (n - 1) / 2 - m = 1 + ((n - 1) / 2 - (m + 1)) := by omega
      rw [walkFrom, if_neg (hzero.not.2 hend), hright, hturned, pairCells_eq_map_visited,
        ih (pairColumn_succ hodd m) (by omega), hpairs, Nat.mul_add (2 * n) 1, ← List.range'_append_1,
        List.map_append, Nat.mul_one, Nat.mul_add (2 * n) m, Nat.mul_one]

theorem walk_eq_map_visited (h9 : 9 ≤ n) (hodd : n % 2 = 1) :
    walk n = (List.range (n * (n - 1))).map (visited n) := by
  have hright : skipTiming (n - 1) = pairColumn n 0 := by
    unfold skipTiming pairColumn
    split_ifs <;> omega
  have htotal : 2 * n * ((n - 1) / 2) = n * (n - 1) := by
    rw [Nat.mul_comm 2 n, Nat.mul_assoc, Nat.mul_div_cancel' (by omega)]
  have hwalk := walkFrom_eq_map_visited (m := 0) h9 hodd (fuel := n) hright (by omega)
  rwa [Nat.sub_zero, htotal, Nat.mul_zero, ← List.range_eq_range'] at hwalk

/-! ### The cells of the walk -/

theorem visited_inj (h9 : 9 ≤ n) (hodd : n % 2 = 1) {j k : Nat} (hj : j < n * (n - 1)) (hk : k < n * (n - 1))
    (h : visited n j = visited n k) : j = k := by
  obtain ⟨m, i, b, hi, hb, rfl⟩ := exists_cellNumber (n := n) (by omega) j
  obtain ⟨m', i', b', hi', hb', rfl⟩ := exists_cellNumber (n := n) (by omega) k
  rw [cellNumber_lt_iff hodd hi hb] at hj
  rw [cellNumber_lt_iff hodd hi' hb'] at hk
  rw [visited_cellNumber hi hb, visited_cellNumber hi' hb', Prod.mk.injEq] at h
  obtain ⟨hrow, hcol⟩ := h
  have hpair : m = m' ∧ b = b' := by
    unfold pairColumn at hcol
    split_ifs at hcol <;> omega
  obtain ⟨rfl, rfl⟩ := hpair
  have hturn : i = i' := by split at hrow <;> omega
  rw [hturn]

/-- Every cell of the symbol outside column 6 has a number. -/
theorem exists_visited_iff (h9 : 9 ≤ n) (hodd : n % 2 = 1) {r c : Nat} :
    (∃ k, k < n * (n - 1) ∧ visited n k = (r, c)) ↔ r < n ∧ c < n ∧ c ≠ 6 := by
  constructor
  · rintro ⟨k, hk, hvisited⟩
    obtain ⟨m, i, b, hi, hb, rfl⟩ := exists_cellNumber (n := n) (by omega) k
    rw [cellNumber_lt_iff hodd hi hb] at hk
    rw [visited_cellNumber hi hb, Prod.mk.injEq] at hvisited
    obtain ⟨rfl, rfl⟩ := hvisited
    unfold pairColumn
    split_ifs <;> omega
  · rintro ⟨hr, hc, h6⟩
    -- how many columns other than column 6 lie to the right
    obtain ⟨d, hd⟩ : ∃ d, d = if c < 6 then n - 2 - c else n - 1 - c := ⟨_, rfl⟩
    have hi : (if d / 2 % 2 = 0 then n - 1 - r else r) < n := by split <;> omega
    have hb : d % 2 < 2 := Nat.mod_lt d (by decide)
    have hm : 2 * (d / 2) + 1 < n := by split at hd <;> omega
    refine ⟨cellNumber n (d / 2) _ (d % 2), (cellNumber_lt_iff hodd hi hb).2 hm, ?_⟩
    rw [visited_cellNumber hi hb, Prod.mk.injEq]
    constructor
    · split <;> omega
    · unfold pairColumn
      split_ifs at hd ⊢ <;> omega

/-- Settles O43: the walk lists the numbered cells, and the cells outside column 6 are each numbered once. -/
theorem walkVisitsEveryCellOutsideColumnSixOnce : Obligations.WalkVisitsEveryCellOutsideColumnSixOnce := by
  intro n h9 hodd
  rw [walk_eq_map_visited h9 hodd]
  refine ⟨by simp, ?_, fun k hk => by simp [hk], fun r c => ?_⟩
  · exact List.nodup_range.map_on fun j hj k hk =>
      visited_inj h9 hodd (List.mem_range.1 hj) (List.mem_range.1 hk)
  · simp only [List.mem_map, List.mem_range, exists_visited_iff h9 hodd]

end Sys2Proof.Machine
end

section
/-! The walker's commands (rules R142, R143): WINIT, the word WNEXT returns, and its four cases. -/

namespace Sys2Proof.Machine

open Sys2Proof.Claim

variable {s : State}

/-! ### WINIT -/

theorem exec_winit (hs : Ready s) (hv : s.verv = true) : exec .winit s = .next (winitEffect s) :=
  exec_of_passes (i := .winit) nofun hs (by simp [Passes, testsOf, hv])

/-- The side less one, as the statements write it (rule R9). -/
theorem size_sub_one (s : State) : s.size - 1 = 16 + 4 * s.ver.toNat := by
  simp only [State.size, side]
  omega

/-- Settles O41: the one test of WINIT, and the walker's registers with size − 1 written out. -/
theorem winitStartsTheWalker : Obligations.WinitStartsTheWalker := by
  refine ⟨rfl, fun s hs => ⟨fun hv => ?_, fun hv => ?_⟩⟩
  · exact raises_of_first_test (i := .winit) nofun hs rfl (by simp [hv])
  · rw [exec_winit hs hv, winitEffect, size_sub_one]

/-! ### WNEXT -/

theorem exec_wnext (hs : Ready s) (hact : s.wact = true) : exec .wnext s = .next (wnextEffect s) :=
  exec_of_passes (i := .wnext) nofun hs (by simp [Passes, testsOf, hact])

/-- The word WNEXT returns, `(row << 8) | col` (rule R143): the column is a byte. -/
def State.walkWord (s : State) : Word := BitVec.ofNat 32 (256 * s.walkRow + s.walkCol)

theorem wnextEffect_eq (s : State) : wnextEffect s = advanceWalker (s.setRes s.walkWord) := by
  have hcol : s.walkCol < 2 ^ 8 := by
    have := s.wright.isLt
    unfold State.walkCol
    omega
  have hshift : BitVec.ofNat 32 s.walkRow <<< 8 = BitVec.ofNat 32 (s.walkRow <<< 8) := by
    rw [Nat.shiftLeft_eq, BitVec.ofNat_mul]
    exact (BitVec.mul_twoPow_eq_shiftLeft _ 8).symm
  have hword : BitVec.ofNat 32 s.walkRow <<< 8 ||| BitVec.ofNat 32 s.walkCol = s.walkWord := by
    rw [hshift, ← BitVec.ofNat_or, ← Nat.shiftLeft_add_eq_or_of_lt hcol, Nat.shiftLeft_eq, Nat.mul_comm]
    rfl
  rw [wnextEffect, hword]

/-- The right cell of a row is followed by the left one. -/
theorem wnextEffect_of_right (hj : s.wj = false) : wnextEffect s = { s with res := s.walkWord, wj := true } :=
  (wnextEffect_eq s).trans (if_pos hj)

/-- The left cell of a row is followed by the next row. -/
theorem wnextEffect_of_left (hj : s.wj = true) (hi : s.wi.toNat < s.size - 1) :
    wnextEffect s = { s with res := s.walkWord, wj := false, wi := BitVec.ofNat 6 (s.wi.toNat + 1) } := by
  have hnext : BitVec.ofNat 6 (s.wi.toNat + 1) = s.wi + 1 := by simp [BitVec.ofNat_add]
  rw [hnext]
  exact (wnextEffect_eq s).trans ((if_neg (by simp [hj])).trans (if_pos hi))

/-- At the end of a pair only the next column is left to decide. -/
theorem wnextEffect_of_pair_end (hj : s.wj = true) (hi : s.wi.toNat = s.size - 1) :
    wnextEffect s = nextPair (s.setRes s.walkWord) :=
  (wnextEffect_eq s).trans ((if_neg (by simp [hj])).trans (if_neg (Nat.not_lt.2 hi.ge)))

/-- The last cell of a pair is followed by the next pair, walked the other way. -/
theorem wnextEffect_of_pair (hj : s.wj = true) (hi : s.wi.toNat = s.size - 1) (hr : s.wright.toNat ≠ 1) :
    wnextEffect s = { s with
      res := s.walkWord, wj := false, wi := 0, wup := !s.wup,
      wright := BitVec.ofNat 6 (skipTiming (s.wright.toNat - 2)) } :=
  (wnextEffect_of_pair_end hj hi).trans (if_neg hr)

/-- The last cell of the last pair ends the traversal. -/
theorem wnextEffect_of_last (hj : s.wj = true) (hi : s.wi.toNat = s.size - 1) (hr : s.wright.toNat = 1) :
    wnextEffect s = { s with
      res := s.walkWord, wj := false, wi := 0, wup := !s.wup, wact := false, wdone := true } :=
  (wnextEffect_of_pair_end hj hi).trans (if_pos hr)

theorem wnextEffect_res (s : State) : (wnextEffect s).res = s.walkWord := by
  obtain ⟨_, _, _, _, _, _, h⟩ := advanceWalker_frame (s.setRes s.walkWord)
  rw [wnextEffect_eq, h, State.setRes_res]

/-- Settles O42: the one test of WNEXT, the word it returns, and its four cases. -/
theorem wnextYieldsTheCellAndMovesOn : Obligations.WnextYieldsTheCellAndMovesOn := by
  refine ⟨rfl, fun s hs _ => ⟨fun hact => ?_, fun hact => ?_⟩⟩
  · exact raises_of_first_test (i := .wnext) nofun hs rfl (by simp [hact])
  · simp only [← size_sub_one]
    refine ⟨_, exec_wnext hs hact, wnextEffect_res s, ?_⟩
    rw [wnextEffect_res]
    refine ⟨fun hj => wnextEffect_of_right hj, fun hj hi => wnextEffect_of_left hj hi, fun hj hi hr => ?_,
      fun hj hi hr => wnextEffect_of_last hj hi hr⟩
    have hskip : skipTiming (s.wright.toNat - 2) = if s.wright.toNat = 8 then 5 else s.wright.toNat - 2 :=
      if_congr (by omega) rfl rfl
    rw [wnextEffect_of_pair hj hi hr, hskip]

end Sys2Proof.Machine
end

section
/-! The traversal the WNEXTs make (rules R141 to R143): while it lasts, the walker's registers hold the pair, the turn and
the side of the next cell's number. -/

namespace Sys2Proof.Machine

open Sys2Proof.Claim

variable {s : State} {n k : Nat}

/-- The walker's registers name the k-th cell of the visiting order, in pair m (rules R14, R141). -/
structure NamesCell (n m k : Nat) (s : State) : Prop where
  column : s.wright.toNat = pairColumn n m
  direction : s.wup = decide (m % 2 = 0)
  inside : 2 * m + 1 < n
  number : k = cellNumber n m s.wi.toNat s.wj.toNat

/-- A core in the middle of a traversal of an n × n symbol, with k cells behind it. -/
structure WalkerAt (n k : Nat) (s : State) : Prop where
  ready : Ready s
  registers : s.registersOk = true
  active : s.wact = true
  size : s.size = n
  position : ∃ m, NamesCell n m k s

/-! ### What the registers say -/

theorem WalkerAt.side_bounds (h : WalkerAt n k s) : n % 2 = 1 ∧ 21 ≤ n ∧ n ≤ 57 := by
  obtain ⟨-, hversion, hwalker⟩ := registersOk_iff.1 h.registers
  obtain ⟨hv, -, -⟩ := hwalker.active h.active
  have := h.size ▸ hversion.size hv
  omega

theorem WalkerAt.wdone (h : WalkerAt n k s) : s.wdone = false := by
  obtain ⟨-, -, hwalker⟩ := registersOk_iff.1 h.registers
  obtain ⟨-, hdone, -⟩ := hwalker.active h.active
  exact hdone

theorem WalkerAt.wi_lt (h : WalkerAt n k s) : s.wi.toNat < n := by
  obtain ⟨-, -, hwalker⟩ := registersOk_iff.1 h.registers
  obtain ⟨-, -, hok⟩ := hwalker.active h.active
  exact h.size ▸ (walkerOk_iff.1 hok).1

theorem WalkerAt.lt (h : WalkerAt n k s) : k < n * (n - 1) := by
  obtain ⟨m, hm⟩ := h.position
  rw [hm.number]
  exact (cellNumber_lt_iff h.side_bounds.1 h.wi_lt (Bool.toNat_lt _)).2 hm.inside

/-- WNEXT returns the k-th cell of the visiting order. -/
theorem WalkerAt.walkWord (h : WalkerAt n k s) :
    s.walkWord = BitVec.ofNat 32 (256 * (visited n k).1 + (visited n k).2) := by
  obtain ⟨m, hm⟩ := h.position
  rw [hm.number, visited_cellNumber h.wi_lt (Bool.toNat_lt _), State.walkWord, State.walkRow, State.walkCol, h.size,
    hm.column, hm.direction]
  simp only [decide_eq_true_eq]

/-! ### One WNEXT -/

/-- The last cell of the last pair is the last of the visiting order. -/
theorem WalkerAt.number_of_last (h : WalkerAt n k s) (hlast : atLastCell s = true) : k + 1 = n * (n - 1) := by
  obtain ⟨m, hm⟩ := h.position
  have hi := h.wi_lt
  have hcol := hm.column
  simp only [atLastCell, Bool.and_eq_true, decide_eq_true_eq, h.size] at hlast
  obtain ⟨⟨hj, hrow⟩, hright⟩ := hlast
  have hn : n = 2 * m + 3 := by
    unfold pairColumn at hcol
    split at hcol <;> have := hm.inside <;> omega
  rw [hm.number, cellNumber, hj, show s.wi.toNat = n - 1 by omega, hn]
  simp only [Bool.toNat_true, show 2 * m + 3 - 1 = 2 * m + 2 by omega]
  ring

/-- From the right cell of a row to the left one. -/
theorem NamesCell.next_side {m : Nat} (h : NamesCell n m k s) (hj : s.wj = false) :
    NamesCell n m (k + 1) (wnextEffect s) := by
  obtain ⟨hcolumn, hdirection, hinside, hnumber⟩ := h
  rw [hj] at hnumber
  rw [wnextEffect_of_right hj]
  exact ⟨hcolumn, hdirection, hinside, hnumber ▸ rfl⟩

/-- From the left cell of a row to the right one of the next row. -/
theorem NamesCell.next_row {m : Nat} (h : NamesCell n m k s) (hj : s.wj = true) (hi : s.wi.toNat < s.size - 1)
    (hsize : s.size ≤ 57) : NamesCell n m (k + 1) (wnextEffect s) := by
  obtain ⟨hcolumn, hdirection, hinside, hnumber⟩ := h
  have hwi : (BitVec.ofNat 6 (s.wi.toNat + 1)).toNat = s.wi.toNat + 1 := by
    rw [BitVec.toNat_ofNat, Nat.mod_eq_of_lt (by omega)]
  rw [hj, cellNumber, Bool.toNat_true] at hnumber
  rw [wnextEffect_of_left hj hi]
  refine ⟨hcolumn, hdirection, hinside, ?_⟩
  rw [hwi, cellNumber, Bool.toNat_false]
  omega

/-- From the last cell of a pair to the first one of the next pair. -/
theorem NamesCell.next_pair {m : Nat} (h : NamesCell n m k s) (hj : s.wj = true) (hi : s.wi.toNat = n - 1)
    (hright : s.wright.toNat ≠ 1) (hsize : s.size = n) (hodd : n % 2 = 1) (hn : n ≤ 57) :
    NamesCell n (m + 1) (k + 1) (wnextEffect s) := by
  obtain ⟨hcolumn, hdirection, hinside, hnumber⟩ := h
  have hinside' : 2 * (m + 1) + 1 < n := by
    rw [hcolumn, pairColumn] at hright
    split at hright <;> omega
  have hlt : pairColumn n (m + 1) < 2 ^ 6 := by
    unfold pairColumn
    split <;> omega
  rw [hj, hi, cellNumber, Bool.toNat_true] at hnumber
  rw [wnextEffect_of_pair hj (hsize.symm ▸ hi) hright, hcolumn, pairColumn_succ hodd m]
  refine ⟨(BitVec.toNat_ofNat _ _).trans (Nat.mod_eq_of_lt hlt), ?_, hinside', ?_⟩
  · change (!s.wup) = _
    rw [hdirection, ← decide_not, decide_eq_decide]
    omega
  · change k + 1 = 2 * n * (m + 1) + (2 * 0 + 0)
    rw [Nat.mul_add]
    omega

/-- Before the last cell a WNEXT leads to the registers of the next number. -/
theorem WalkerAt.position_wnextEffect (h : WalkerAt n k s) (hlast : atLastCell s = false) :
    ∃ m, NamesCell n m (k + 1) (wnextEffect s) := by
  obtain ⟨m, hm⟩ := h.position
  obtain ⟨hodd, -, hhigh⟩ := h.side_bounds
  cases hj : s.wj with
  | false => exact ⟨m, hm.next_side hj⟩
  | true =>
    by_cases hrow : s.wi.toNat < n - 1
    · exact ⟨m, hm.next_row hj (h.size.symm ▸ hrow) (h.size.symm ▸ hhigh)⟩
    · have hturn : s.wi.toNat = n - 1 := Nat.le_antisymm (Nat.le_sub_one_of_lt h.wi_lt) (Nat.not_lt.1 hrow)
      have hright : s.wright.toNat ≠ 1 := by simpa [atLastCell, hj, h.size, hturn] using hlast
      exact ⟨m + 1, hm.next_pair hj hturn hright h.size hodd hhigh⟩

theorem WalkerAt.wnextEffect (h : WalkerAt n k s) (hlast : atLastCell s = false) :
    WalkerAt n (k + 1) (wnextEffect s) where
  ready := (effectOf_fault_err_pending (i := .wnext) nofun s).1.trans h.ready
  registers := registersOk_wnextEffect h.active h.registers
  active := by rw [(wnextEffect_flags h.active).1, hlast]; rfl
  size := by
    obtain ⟨_, _, _, _, _, _, _, hframe⟩ := wnextEffect_frame s
    rw [hframe]
    exact h.size
  position := h.position_wnextEffect hlast

theorem WalkerAt.last_iff (h : WalkerAt n k s) : atLastCell s = true ↔ k + 1 = n * (n - 1) := by
  refine ⟨h.number_of_last, fun hk => ?_⟩
  by_contra hlast
  exact (h.wnextEffect (Bool.not_eq_true _ ▸ hlast)).lt.ne hk

/-! ### The whole traversal -/

theorem walkerAt_winitEffect (hs : Ready s) (hregs : s.registersOk = true) (hv : s.verv = true) :
    WalkerAt s.size 0 (winitEffect s) := by
  obtain ⟨-, hversion, -⟩ := registersOk_iff.1 hregs
  obtain ⟨-, hlow, hhigh⟩ := hversion.size hv
  have hcolumn : (winitEffect s).wright.toNat = pairColumn s.size 0 := by
    rw [pairColumn, if_neg (by omega)]
    exact (BitVec.toNat_ofNat _ _).trans (Nat.mod_eq_of_lt (by omega))
  exact ⟨hs, registersOk_winitEffect hv hregs, rfl, rfl, 0, hcolumn, rfl, by omega, rfl⟩

/-- Some more WNEXTs, not beyond the last cell. -/
theorem WalkerAt.run_wnext (j : Nat) (h : WalkerAt n k s) (hj : k + j < n * (n - 1)) :
    ∃ t, run (List.replicate j .wnext) s = some t ∧ WalkerAt n (k + j) t := by
  induction j generalizing s k with
  | zero => exact ⟨s, rfl, h⟩
  | succ j ih =>
    have hlast : atLastCell s = false := by
      rw [← Bool.not_eq_true, h.last_iff]
      omega
    obtain ⟨t, hrun, ht⟩ := ih (h.wnextEffect hlast) (by omega)
    refine ⟨t, ?_, by rwa [Nat.add_comm j, ← Nat.add_assoc]⟩
    rw [List.replicate_succ, run, exec_wnext h.ready h.active]
    exact hrun

/-- Settles O44: WINIT names the first cell, each WNEXT names the next, and after the last the registers agree on
WALK = 0x2040. -/
theorem walkerYieldsTheVisitingOrder : Obligations.WalkerYieldsTheVisitingOrder := by
  intro s hs hregs hv k hk
  obtain ⟨t, hrun, ht⟩ := (walkerAt_winitEffect hs hregs hv).run_wnext k (by rwa [Nat.zero_add])
  rw [Nat.zero_add] at ht
  obtain ⟨hact, hdone⟩ := wnextEffect_flags ht.active
  rw [ht.wdone, Bool.or_false] at hdone
  refine ⟨t, _, ?_, exec_wnext ht.ready ht.active, ?_, fun hmore => ?_, fun hend => ?_⟩
  · rw [run, exec_winit hs hv]
    exact hrun
  · rw [wnextEffect_res, ht.walkWord]
  · have hlast : atLastCell t = false := by
      rw [← Bool.not_eq_true, ht.last_iff]
      exact hmore.ne
    rw [hact, hdone, hlast]
    exact ⟨rfl, rfl⟩
  · have hlast := ht.last_iff.2 hend
    obtain ⟨-, -, hwalker⟩ := registersOk_iff.1 (registersOk_wnextEffect ht.active ht.registers)
    refine ⟨by rw [hact, hlast]; rfl, by rw [hdone, hlast], (hwalker.finished ?_).2⟩
    rw [hdone, hlast]

end Sys2Proof.Machine
end

section
/-! The mask (rule R146): the loop of MASK turns each cell of the square once, and a turn is its own inverse. -/

namespace Sys2Proof.Machine

open Sys2Proof.Claim

variable {n r c : Nat}

/-! ### One cell -/

/-- What rule R146 makes of a cell x at (r, c). -/
def flippedCell (r c : Nat) (x : MCell) : MCell :=
  if x.cls = .D ∧ (r + c) % 2 = 0 then ⟨.D, !x.val⟩ else x

theorem flippedCell_flippedCell (r c : Nat) (x : MCell) : flippedCell r c (flippedCell r c x) = x := by
  obtain ⟨cls, val⟩ := x
  unfold flippedCell
  split_ifs <;> simp_all

theorem cellAt_maskCell (hc : c < Config.matDim) (mat : Memory MCell) {p : Nat × Nat} (hp : p.2 < Config.matDim) :
    cellAt (maskCell mat p) r c = if p = (r, c) then flippedCell r c (cellAt mat r c) else cellAt mat r c := by
  obtain ⟨r', c'⟩ := p
  unfold maskCell flippedCell
  dsimp only
  by_cases hcell : r' = r ∧ c' = c
  · obtain ⟨rfl, rfl⟩ := hcell
    rw [if_pos rfl, apply_ite (fun m => cellAt m r' c'), cellAt_putCell_eq mat hc hp,
      if_pos (c := r' = r' ∧ c' = c') ⟨rfl, rfl⟩]
  · rw [if_neg (fun h => hcell (Prod.mk.inj h)), apply_ite (fun m => cellAt m r c),
      cellAt_putCell_eq mat hc hp, if_neg hcell, ite_self]

/-! ### The loop -/

/-- A loop that turns a cell by `f` whenever it comes to it turns it as often as its list holds the cell. -/
theorem cellAt_foldl_turns {l : List (Nat × Nat)} {turn : Memory MCell → Nat × Nat → Memory MCell}
    {f : MCell → MCell} (hturn : ∀ m, ∀ p ∈ l, cellAt (turn m p) r c =
      if p = (r, c) then f (cellAt m r c) else cellAt m r c) (mat : Memory MCell) :
    cellAt (l.foldl turn mat) r c = f^[l.count (r, c)] (cellAt mat r c) := by
  induction l generalizing mat with
  | nil => rfl
  | cons p l ih =>
    rw [List.foldl_cons, ih (fun m q hq => hturn m q (List.mem_cons_of_mem p hq)), hturn mat p List.mem_cons_self]
    by_cases hp : p = (r, c)
    · rw [if_pos hp, hp, List.count_cons_self, Function.iterate_succ_apply]
    · rw [if_neg hp, List.count_cons_of_ne hp]

theorem nodup_square (n : Nat) : (square n).Nodup := List.nodup_range.product List.nodup_range

/-- MAT after MASK, on every cell of the store (rule R146). -/
theorem cellAt_maskEffect {s : State} (hn : s.size ≤ Config.matDim) (hc : c < Config.matDim) :
    cellAt (maskEffect s).mat r c =
      if r < s.size ∧ c < s.size then flippedCell r c (cellAt s.mat r c) else cellAt s.mat r c := by
  have hturn : ∀ m, ∀ p ∈ square s.size, cellAt (maskCell m p) r c =
      if p = (r, c) then flippedCell r c (cellAt m r c) else cellAt m r c :=
    fun m p hp => cellAt_maskCell hc m ((mem_square.1 hp).2.trans_le hn)
  rw [maskEffect, cellAt_foldl_turns hturn, (nodup_square s.size).count]
  simp only [mem_square]
  split <;> rfl

/-- Every index of the store is the index of a cell with a legal column. -/
theorem exists_cellIndex (i : Nat) : ∃ r c, c < Config.matDim ∧ i = cellIndex r c :=
  ⟨i / Config.matDim, i % Config.matDim, Nat.mod_lt i (by decide), (Nat.div_add_mod i Config.matDim).symm⟩

/-! ### The command -/

theorem exec_mask {s : State} (hs : Ready s) (hm : s.matv = true) : exec .mask s = .next (maskEffect s) :=
  exec_of_passes (i := .mask) nofun hs (by simp [Passes, testsOf, hm])

/-- Settles O46: the one test of MASK, and the cells it leaves inside and outside the square. -/
theorem maskFlipsTheCheckerboard : Obligations.MaskFlipsTheCheckerboard := by
  refine ⟨rfl, fun s hs hregs => ⟨fun hm => ?_, fun hm => ?_⟩⟩
  · exact raises_of_first_test (i := .mask) nofun hs rfl (by simp [hm])
  · obtain ⟨-, hn⟩ := size_bounds (ver_le_of_registersOk hregs)
    refine ⟨maskEffect s, exec_mask hs hm, rfl, fun r c hr hc => ?_, fun i hout => ?_⟩
    · exact (cellAt_maskEffect hn (hc.trans_le hn)).trans (if_pos ⟨hr, hc⟩)
    · obtain ⟨r, c, hc, rfl⟩ := exists_cellIndex i
      exact (cellAt_maskEffect hn hc).trans (if_neg fun ⟨hr, hc⟩ => hout ⟨r, c, hr, hc, rfl⟩)

/-- The second MASK turns back what the first one turned; the stores are canonical, so equal cells are equal stores. -/
theorem maskEffect_maskEffect {s : State} (hregs : s.registersOk = true) (hstores : s.storesOk = true) :
    maskEffect (maskEffect s) = s := by
  have h10 := ver_le_of_registersOk hregs
  obtain ⟨-, hn⟩ := size_bounds h10
  have hfit := storesOk_iff.1 hstores
  have hmat : (maskEffect (maskEffect s)).mat = s.mat := by
    refine Memory.ext_of_wf (storesFit_maskEffect (s := maskEffect s) h10 (storesFit_maskEffect h10 hfit)).mat.wf
      hfit.mat.wf fun i => ?_
    obtain ⟨r, c, hc, rfl⟩ := exists_cellIndex i
    change cellAt _ r c = cellAt s.mat r c
    rw [cellAt_maskEffect (s := maskEffect s) hn hc, cellAt_maskEffect hn hc]
    change (if r < s.size ∧ c < s.size then _ else _) = _
    split
    · exact flippedCell_flippedCell r c _
    · rfl
  calc maskEffect (maskEffect s) = { s with mat := (maskEffect (maskEffect s)).mat, masked := !!s.masked } := rfl
    _ = s := by rw [hmat, Bool.not_not]

/-- Settles O47: both commands pass their test, and together they are the identity. -/
theorem maskTwiceRestoresTheState : Obligations.MaskTwiceRestoresTheState := by
  intro s hs hregs hstores hm
  have hsecond : exec .mask (maskEffect s) = .next (maskEffect (maskEffect s)) := exec_mask (s := maskEffect s) hs hm
  simp only [run, exec_mask hs hm, hsecond, maskEffect_maskEffect hregs hstores]

end Sys2Proof.Machine
end

section
/-! PLACE (rules R144, R145): after k visited cells the loop has given each unset one among them the bit of its number,
left every other cell alone, and counted the unset ones. -/

namespace Sys2Proof.Machine

open Sys2Proof.Claim

section
variable {cw : Memory Byte} {T n : Nat} {mat : Memory MCell}

/-! ### One visited cell -/

/-- Bit number p of the sequence rule R144 places: 0 once the T bits are exhausted. -/
def placedBit (cw : Memory Byte) (T p : Nat) : Bool := decide (p < T) && codewordBit cw p

/-- A turn of the loop is a claim of its cell. -/
theorem placeCell_fst (acc : Memory MCell × Nat) (p : Nat × Nat) :
    (placeCell cw T acc p).1 = claimCell acc.1 p.1 p.2 ⟨.D, placedBit cw T acc.2⟩ := by
  have hbit : (if acc.2 < T then codewordBit cw acc.2 else false) = placedBit cw T acc.2 := by
    unfold placedBit
    split <;> simp_all
  unfold placeCell claimCell
  rw [hbit]
  split <;> rfl

/-- A turn of the loop counts its cell if it is unset. -/
theorem placeCell_snd (acc : Memory MCell × Nat) (p : Nat × Nat) :
    (placeCell cw T acc p).2 = if (cellAt acc.1 p.1 p.2).cls = .U then acc.2 + 1 else acc.2 := by
  unfold placeCell
  split <;> rfl

theorem bitNumber_succ (mat : Memory MCell) (n k : Nat) :
    bitNumber mat n (k + 1) = if visitedClass mat n k = .U then bitNumber mat n k + 1 else bitNumber mat n k := by
  unfold bitNumber
  rw [List.range_succ, List.countP_append, List.countP_singleton]
  split <;> simp_all

/-! ### The loop -/

/-- MAT and the number of bits placed after the first k visited cells (rule R144). -/
def placeFirst (cw : Memory Byte) (T n : Nat) (mat : Memory MCell) (k : Nat) : Memory MCell × Nat :=
  ((List.range k).map (visited n)).foldl (placeCell cw T) (mat, 0)

theorem placeFirst_succ (k : Nat) :
    placeFirst cw T n mat (k + 1) = placeCell cw T (placeFirst cw T n mat k) (visited n k) := by
  simp [placeFirst, List.range_succ]

theorem placeBits_eq_placeFirst (h9 : 9 ≤ n) (hodd : n % 2 = 1) :
    placeBits cw T n mat = (placeFirst cw T n mat (n * (n - 1))).1 := by
  rw [placeBits, walk_eq_map_visited h9 hodd, placeFirst]

/-- What rules R144 and R145 make of the k-th visited cell. -/
def placedCell (cw : Memory Byte) (T n : Nat) (mat : Memory MCell) (k : Nat) : MCell :=
  if visitedClass mat n k = .U then ⟨.D, placedBit cw T (bitNumber mat n k)⟩
  else cellAt mat (visited n k).1 (visited n k).2

/-- The loop after k of its cells: the count, the cells it has not come to, and those it has. -/
structure PlacedUpTo (cw : Memory Byte) (T n : Nat) (mat : Memory MCell) (k : Nat)
    (acc : Memory MCell × Nat) : Prop where
  count : acc.2 = bitNumber mat n k
  ahead : ∀ r c, c < Config.matDim → (∀ j, j < k → visited n j ≠ (r, c)) → cellAt acc.1 r c = cellAt mat r c
  behind : ∀ j, j < k → cellAt acc.1 (visited n j).1 (visited n j).2 = placedCell cw T n mat j

theorem visited_column_lt (h9 : 9 ≤ n) (hodd : n % 2 = 1) {k : Nat} (hk : k < n * (n - 1)) : (visited n k).2 < n := by
  obtain ⟨-, hc, -⟩ := (exists_visited_iff h9 hodd).1 ⟨k, hk, rfl⟩
  exact hc

theorem placedUpTo_placeFirst (h9 : 9 ≤ n) (hodd : n % 2 = 1) (hn : n ≤ Config.matDim) {k : Nat}
    (hk : k ≤ n * (n - 1)) : PlacedUpTo cw T n mat k (placeFirst cw T n mat k) := by
  induction k with
  | zero => exact ⟨rfl, fun _ _ _ _ => rfl, nofun⟩
  | succ k ih =>
    obtain ⟨hcount, hahead, hbehind⟩ := ih (by omega)
    have hcol : ∀ j, j < k + 1 → (visited n j).2 < Config.matDim := fun j hj =>
      (visited_column_lt h9 hodd (hj.trans_le hk)).trans_le hn
    have hnew : ∀ j, j < k → visited n j ≠ visited n k := fun j hj h =>
      hj.ne (visited_inj h9 hodd (by omega) (by omega) h)
    -- the loop comes to a cell that still holds what it held at the start
    have hcell : cellAt (placeFirst cw T n mat k).1 (visited n k).1 (visited n k).2 =
        cellAt mat (visited n k).1 (visited n k).2 := hahead _ _ (hcol k k.lt_succ_self) hnew
    rw [placeFirst_succ]
    constructor
    · rw [placeCell_snd, hcell, hcount, bitNumber_succ]
      rfl
    · intro r c hc hother
      rw [placeCell_fst, cellAt_claimCell _ hc (hcol k k.lt_succ_self),
        if_neg fun ⟨⟨hrow, hcol⟩, _⟩ => hother k k.lt_succ_self (Prod.ext hrow hcol)]
      exact hahead r c hc fun j hj => hother j (Nat.lt_succ_of_lt hj)
    · intro j hj
      rw [placeCell_fst, cellAt_claimCell _ (hcol j hj) (hcol k k.lt_succ_self)]
      obtain hj | rfl := Nat.lt_succ_iff_lt_or_eq.1 hj
      · rw [if_neg fun ⟨⟨hrow, hcol⟩, _⟩ => hnew j hj (Prod.ext hrow.symm hcol.symm)]
        exact hbehind j hj
      · rw [hcell, hcount, placedCell, visitedClass]
        exact if_congr (and_iff_right ⟨rfl, rfl⟩) rfl rfl

end

/-! ### The command -/

/-- Settles O45: the one test of PLACE, then the cells its loop has come to at its end and those it never comes to. -/
theorem placeFillsTheUnsetCellsInOrder : Obligations.PlaceFillsTheUnsetCellsInOrder := by
  refine ⟨rfl, fun s hs hregs => ⟨fun hm => ?_, fun hm => ?_⟩⟩
  · exact raises_of_first_test (i := .place) nofun hs rfl (by simp [hm])
  · obtain ⟨-, hversion, -⟩ := registersOk_iff.1 hregs
    obtain ⟨hmod, hlow, hn⟩ := hversion.size (hversion.matv hm)
    have h9 : 9 ≤ s.size := by omega
    have hodd : s.size % 2 = 1 := by omega
    have hplaced := placedUpTo_placeFirst (cw := s.cw) (T := 8 * params.total s.ver.toNat) (mat := s.mat) h9 hodd hn
      (Nat.le_refl _)
    refine ⟨placeEffect params s, exec_of_passes (i := .place) nofun hs (by simp [Passes, testsOf, hm]), rfl, ?_⟩
    rw [placeEffect_mat, placeBits_eq_placeFirst h9 hodd]
    refine ⟨hplaced.behind, fun i hout => ?_⟩
    obtain ⟨r, c, hc, rfl⟩ := exists_cellIndex i
    refine hplaced.ahead r c hc fun j hj hvisited => ?_
    obtain ⟨hr, hc, h6⟩ := (exists_visited_iff h9 hodd).1 ⟨j, hj, hvisited⟩
    exact hout ⟨r, c, hr, hc, h6, rfl⟩

end Sys2Proof.Machine
end

section
/-! FMT (rules R156, R157): what it makes of each cell, and that it works on other cells than PLACE and MASK. -/

namespace Sys2Proof.Machine

open Sys2Proof.Claim

variable {s : State} {n r c : Nat}

/-! ### One cell -/

/-- What rule R156 makes of a cell x at (r, c). -/
def formattedCell (P : Params) (n r c : Nat) (x : MCell) : MCell :=
  if isFormatCell n r c = true ∧ (x.cls = .R ∨ x.cls = .F) then ⟨.F, formatBit P (formatIndex n r c)⟩ else x

/-- FMT leaves a cell alone that is neither reserved nor filled. -/
theorem formattedCell_of_cls (P : Params) {x : MCell} (hR : x.cls ≠ .R) (hF : x.cls ≠ .F) :
    formattedCell P n r c x = x := if_neg fun ⟨_, h⟩ => h.elim hR hF

theorem formattedCell_formattedCell (P : Params) (x : MCell) :
    formattedCell P n r c (formattedCell P n r c x) = formattedCell P n r c x := by
  unfold formattedCell
  split_ifs <;> simp_all

/-- FMT writes no unset cell and leaves none behind. -/
theorem formattedCell_cls_eq_U (P : Params) (x : MCell) : (formattedCell P n r c x).cls = .U ↔ x.cls = .U := by
  unfold formattedCell
  split
  · next h => rcases h.2 with h | h <;> simp [h]
  · rfl

/-- FMT leaves a data cell alone, and MASK any other. -/
theorem formattedCell_flippedCell (P : Params) (x : MCell) :
    formattedCell P n r c (flippedCell r c x) = flippedCell r c (formattedCell P n r c x) := by
  by_cases hD : x.cls = .D
  · have hflipped : (flippedCell r c x).cls = .D := by
      unfold flippedCell
      split
      · rfl
      · exact hD
    rw [formattedCell_of_cls P (by simp [hflipped]) (by simp [hflipped]),
      formattedCell_of_cls P (by simp [hD]) (by simp [hD])]
  · have hformatted : (formattedCell P n r c x).cls ≠ .D := by
      unfold formattedCell
      split
      · nofun
      · exact hD
    rw [flippedCell, flippedCell, if_neg fun h => hD h.1, if_neg fun h => hformatted h.1]

/-! ### The loop -/

theorem cellAt_fillFormatCell (P : Params) (hn : n ≤ Config.matDim) (h17 : 17 ≤ n) (hc : c < Config.matDim)
    (mat : Memory MCell) {e : Nat × (Nat × Nat)} (he : e ∈ formatCells n) :
    cellAt (fillFormatCell P mat e) r c =
      if e.2 = (r, c) ∧ ((cellAt mat r c).cls = .R ∨ (cellAt mat r c).cls = .F) then
        ⟨.F, formatBit P (formatIndex n r c)⟩
      else cellAt mat r c := by
  obtain ⟨i, r', c'⟩ := e
  obtain ⟨⟨-, hc'⟩, -, rfl⟩ := (mem_formatCells h17).1 he
  unfold fillFormatCell
  dsimp only
  by_cases hcell : r' = r ∧ c' = c
  · obtain ⟨rfl, rfl⟩ := hcell
    rw [apply_ite (fun m => cellAt m r' c'), cellAt_putCell_eq mat hc hc,
      if_pos (c := r' = r' ∧ c' = c') ⟨rfl, rfl⟩]
    exact if_congr (and_iff_right rfl).symm rfl rfl
  · rw [if_neg (c := (r', c') = (r, c) ∧ _) (fun h => hcell (Prod.mk.inj h.1)), apply_ite (fun m => cellAt m r c),
      cellAt_putCell_eq mat hc (hc'.trans_le hn), if_neg hcell, ite_self]

/-- MAT after FMT, on every cell of the store (rule R156). -/
theorem cellAt_fmtEffect (P : Params) (hregs : s.registersOk = true) (hc : c < Config.matDim) :
    cellAt (fmtEffect P s).mat r c =
      if r < s.size ∧ c < s.size then formattedCell P s.size r c (cellAt s.mat r c) else cellAt s.mat r c := by
  obtain ⟨h17, hn⟩ := size_bounds (ver_le_of_registersOk hregs)
  rw [fmtEffect_mat, cellAt_foldl s.mat (fun e => e.2 = (r, c)) (fun x => x.cls = .R ∨ x.cls = .F)
    fun m e he => cellAt_fillFormatCell P hn h17 hc m he, formattedCell, ← ite_and]
  refine if_congr (.trans (and_congr_left' ⟨?_, fun h => ?_⟩) and_assoc) rfl rfl
  · rintro ⟨⟨i, _⟩, he, rfl⟩
    obtain ⟨hgrid, hformat, -⟩ := (mem_formatCells h17).1 he
    exact ⟨hgrid, hformat⟩
  · exact ⟨_, (mem_formatCells h17).2 ⟨h.1, h.2, rfl⟩, rfl⟩

/-! ### The command -/

/-- The constant of rule R158 (log entry 3). -/
theorem formatBit_params (i : Nat) : formatBit params i = (0x77C4 : Nat).testBit i := rfl

theorem exec_fmt (hs : Ready s) (hm : s.matv = true) : exec .fmt s = .next (fmtEffect params s) :=
  exec_of_passes (i := .fmt) nofun hs (by simp [Passes, testsOf, hm])

/-- Settles O48: the one test of FMT, and the cells it leaves inside and outside the square. -/
theorem fmtFillsTheReservedCells : Obligations.FmtFillsTheReservedCells := by
  refine ⟨rfl, fun s hs hregs => ⟨fun hm => ?_, fun hm => ?_⟩⟩
  · exact raises_of_first_test (i := .fmt) nofun hs rfl (by simp [hm])
  · obtain ⟨-, hn⟩ := size_bounds (ver_le_of_registersOk hregs)
    refine ⟨fmtEffect params s, exec_fmt hs hm,
      by simp only [fmtEffect], fun r c hr hc => ?_, fun i hout => ?_⟩
    · rw [cellAt_fmtEffect params hregs (hc.trans_le hn), if_pos ⟨hr, hc⟩, formattedCell, formatBit_params]
    · obtain ⟨r, c, hc, rfl⟩ := exists_cellIndex i
      change cellAt (fmtEffect params s).mat r c = cellAt s.mat r c
      rw [cellAt_fmtEffect params hregs hc, if_neg fun ⟨hr, hc⟩ => hout ⟨r, c, hr, hc, rfl⟩]

end Sys2Proof.Machine
end

section
/-! FMT before or after PLACE and MASK (rule R156): FMT writes reserved and filled cells, PLACE unset ones and MASK
data cells, so they lead to the same cells in either order; the stores are canonical, so equal cells are equal
states. -/

namespace Sys2Proof.Machine

open Sys2Proof.Claim

variable {s : State}

/-- Two states that differ at most in MAT, and not in what MAT reads in any cell, are one state. -/
theorem State.eq_of_cells {s t : State} (hs : s.StoresFit) (ht : t.StoresFit) (hframe : s = { t with mat := s.mat })
    (hcells : ∀ r c, c < Config.matDim → cellAt s.mat r c = cellAt t.mat r c) : s = t := by
  have hmat : s.mat = t.mat := Memory.ext_of_wf hs.mat.wf ht.mat.wf fun i => by
    obtain ⟨r, c, hc, rfl⟩ := exists_cellIndex i
    exact hcells r c hc
  rw [hframe, hmat]

/-! ### What FMT, MASK and PLACE leave for the next command -/

@[simp] theorem fmtEffect_ver (P : Params) (s : State) : (fmtEffect P s).ver = s.ver := by simp only [fmtEffect]

@[simp] theorem fmtEffect_cw (P : Params) (s : State) : (fmtEffect P s).cw = s.cw := by simp only [fmtEffect]

@[simp] theorem fmtEffect_matv (P : Params) (s : State) : (fmtEffect P s).matv = s.matv := by simp only [fmtEffect]

@[simp] theorem fmtEffect_size (P : Params) (s : State) : (fmtEffect P s).size = s.size := by
  rw [State.size, fmtEffect_ver, State.size]

@[simp] theorem maskEffect_size (s : State) : (maskEffect s).size = s.size := rfl

@[simp] theorem placeEffect_size (P : Params) (s : State) : (placeEffect P s).size = s.size := rfl

/-- FMT keeps the stores in form, in a state whose registers agree with its flags; so do MASK and PLACE. -/
theorem State.StoresFit.fmt (h : s.StoresFit) (hregs : s.registersOk = true) : (fmtEffect params s).StoresFit :=
  storesFit_fmtEffect (ver_le_of_registersOk hregs) h

theorem State.StoresFit.mask (h : s.StoresFit) (hregs : s.registersOk = true) : (maskEffect s).StoresFit :=
  storesFit_maskEffect (ver_le_of_registersOk hregs) h

theorem State.StoresFit.place (h : s.StoresFit) (hregs : s.registersOk = true) : (placeEffect params s).StoresFit :=
  storesFit_placeEffect (ver_le_of_registersOk hregs) h

/-! ### FMT twice -/

theorem fmtEffect_fmtEffect (hregs : s.registersOk = true) (hstores : s.StoresFit) :
    fmtEffect params (fmtEffect params s) = fmtEffect params s := by
  have hregs' := registersOk_fmtEffect hregs
  refine State.eq_of_cells ((hstores.fmt hregs).fmt hregs') (hstores.fmt hregs) (by simp only [fmtEffect])
    fun r c hc => ?_
  rw [cellAt_fmtEffect params hregs' hc, cellAt_fmtEffect params hregs hc, fmtEffect_size]
  split
  · exact formattedCell_formattedCell params _
  · rfl

/-! ### FMT and MASK -/

theorem fmtEffect_maskEffect (hregs : s.registersOk = true) (hstores : s.StoresFit) (hm : s.matv = true) :
    fmtEffect params (maskEffect s) = maskEffect (fmtEffect params s) := by
  have hmask := registersOk_maskEffect hm hregs
  have hfmt := registersOk_fmtEffect hregs
  obtain ⟨-, hn⟩ := size_bounds (ver_le_of_registersOk hregs)
  refine State.eq_of_cells ((hstores.mask hregs).fmt hmask) ((hstores.fmt hregs).mask hfmt)
    (by simp only [fmtEffect, maskEffect]) fun r c hc => ?_
  rw [cellAt_fmtEffect params hmask hc, cellAt_maskEffect hn hc,
    cellAt_maskEffect (s := fmtEffect params s) (by rwa [fmtEffect_size]) hc, cellAt_fmtEffect params hregs hc,
    maskEffect_size, fmtEffect_size]
  split
  · exact formattedCell_flippedCell params _
  · rfl

/-! ### FMT and PLACE -/

/-- The square of a matrix is one the traversal covers (rule R141). -/
theorem size_of_matv (hregs : s.registersOk = true) (hm : s.matv = true) : 9 ≤ s.size ∧ s.size % 2 = 1 := by
  obtain ⟨-, hversion, -⟩ := registersOk_iff.1 hregs
  obtain ⟨hmod, hlow, -⟩ := hversion.size (hversion.matv hm)
  omega

/-- MAT after PLACE, at the cells of the traversal and at all others (rules R144, R145). -/
theorem placedUpTo_placeEffect (hregs : s.registersOk = true) (hm : s.matv = true) :
    PlacedUpTo s.cw (8 * params.total s.ver.toNat) s.size s.mat (s.size * (s.size - 1))
      ((placeEffect params s).mat, bitNumber s.mat s.size (s.size * (s.size - 1))) := by
  obtain ⟨h9, hodd⟩ := size_of_matv hregs hm
  obtain ⟨-, hn⟩ := size_bounds (ver_le_of_registersOk hregs)
  have hplaced := placedUpTo_placeFirst (cw := s.cw) (T := 8 * params.total s.ver.toNat) (mat := s.mat) h9 hodd hn
    (Nat.le_refl _)
  rw [placeEffect_mat, placeBits_eq_placeFirst h9 hodd, ← hplaced.count]
  exact hplaced

/-- The cells FMT leaves at the places of the traversal. -/
theorem cellAt_fmtEffect_visited (hregs : s.registersOk = true) (hm : s.matv = true) {k : Nat}
    (hk : k < s.size * (s.size - 1)) :
    cellAt (fmtEffect params s).mat (visited s.size k).1 (visited s.size k).2 =
      formattedCell params s.size (visited s.size k).1 (visited s.size k).2
        (cellAt s.mat (visited s.size k).1 (visited s.size k).2) := by
  obtain ⟨h9, hodd⟩ := size_of_matv hregs hm
  obtain ⟨-, hn⟩ := size_bounds (ver_le_of_registersOk hregs)
  obtain ⟨hr, hc, -⟩ :
      (visited s.size k).1 < s.size ∧ (visited s.size k).2 < s.size ∧ (visited s.size k).2 ≠ 6 :=
    (exists_visited_iff h9 hodd).1 ⟨k, hk, rfl⟩
  rw [cellAt_fmtEffect params hregs (hc.trans_le hn), if_pos ⟨hr, hc⟩]

theorem visitedClass_fmtEffect (hregs : s.registersOk = true) (hm : s.matv = true) {k : Nat}
    (hk : k < s.size * (s.size - 1)) :
    visitedClass (fmtEffect params s).mat s.size k = .U ↔ visitedClass s.mat s.size k = .U := by
  rw [visitedClass, cellAt_fmtEffect_visited hregs hm hk, formattedCell_cls_eq_U, visitedClass]

/-- PLACE counts the same unset cells before and after FMT. -/
theorem bitNumber_fmtEffect (hregs : s.registersOk = true) (hm : s.matv = true) {k : Nat}
    (hk : k < s.size * (s.size - 1)) : bitNumber (fmtEffect params s).mat s.size k = bitNumber s.mat s.size k :=
  List.countP_congr fun j hj => by
    rw [decide_eq_true_iff, decide_eq_true_iff,
      visitedClass_fmtEffect hregs hm ((List.mem_range.1 hj).trans hk)]

/-- FMT leaves alone what PLACE fills, and keeps what PLACE leaves alone from being unset. -/
theorem placedCell_fmtEffect (hregs : s.registersOk = true) (hm : s.matv = true) (cw : Memory Byte) (T : Nat) {k : Nat}
    (hk : k < s.size * (s.size - 1)) :
    placedCell cw T s.size (fmtEffect params s).mat k =
      formattedCell params s.size (visited s.size k).1 (visited s.size k).2 (placedCell cw T s.size s.mat k) := by
  have hclass := visitedClass_fmtEffect hregs hm hk
  unfold placedCell
  rw [bitNumber_fmtEffect hregs hm hk, cellAt_fmtEffect_visited hregs hm hk]
  by_cases hU : visitedClass s.mat s.size k = .U
  · rw [if_pos (hclass.2 hU), if_pos hU, formattedCell_of_cls params (by simp) (by simp)]
  · rw [if_neg (hclass.not.2 hU), if_neg hU]

theorem fmtEffect_placeEffect (hregs : s.registersOk = true) (hstores : s.StoresFit) (hm : s.matv = true) :
    fmtEffect params (placeEffect params s) = placeEffect params (fmtEffect params s) := by
  have hplace := registersOk_placeEffect hm hregs
  have hfmt := registersOk_fmtEffect hregs
  obtain ⟨-, hahead, hbehind⟩ := placedUpTo_placeEffect hregs hm
  obtain ⟨-, hahead', hbehind'⟩ := placedUpTo_placeEffect hfmt ((fmtEffect_matv params s).trans hm)
  rw [fmtEffect_size, fmtEffect_cw, fmtEffect_ver] at hbehind'
  rw [fmtEffect_size] at hahead'
  refine State.eq_of_cells ((hstores.place hregs).fmt hplace) ((hstores.fmt hregs).place hfmt)
    (by simp only [fmtEffect, placeEffect]) fun r c hc => ?_
  by_cases hvisited : ∃ k, k < s.size * (s.size - 1) ∧ visited s.size k = (r, c)
  · obtain ⟨k, hk, hvisited⟩ := hvisited
    obtain ⟨rfl, rfl⟩ : (visited s.size k).1 = r ∧ (visited s.size k).2 = c := by simp [hvisited]
    rw [hbehind' k hk, placedCell_fmtEffect hregs hm _ _ hk, ← hbehind k hk]
    exact cellAt_fmtEffect_visited hplace hm hk
  · rw [hahead' r c hc fun k hk h => hvisited ⟨k, hk, h⟩, cellAt_fmtEffect params hplace hc,
      hahead r c hc fun k hk h => hvisited ⟨k, hk, h⟩, cellAt_fmtEffect params hregs hc, placeEffect_size]

/-! ### The commands -/

/-- Two commands whose tests are passed, one after the other. -/
theorem run_pair {i j : Instr} (hi : i ≠ .reset) (hj : j ≠ .reset) (hs : Ready s) (hpass : Passes i s)
    (hpass' : Passes j (effectOf i s)) : run [i, j] s = some (effectOf j (effectOf i s)) := by
  have hready : Ready (effectOf i s) := (effectOf_fault_err_pending hi s).1.trans hs
  simp only [run, exec_of_passes hi hs hpass, exec_of_passes hj hready hpass']

/-- Settles O49: each effect makes the same of every cell in either order. -/
theorem fmtCommutesWithPlaceAndMask : Obligations.FmtCommutesWithPlaceAndMask := by
  intro s hs hregs hstores hm
  have hfit := storesOk_iff.1 hstores
  have hm' : (fmtEffect params s).matv = true := (fmtEffect_matv params s).trans hm
  have hpass {t : State} (ht : t.matv = true) : Passes .fmt t ∧ Passes .place t ∧ Passes .mask t := by
    simp [Passes, testsOf, ht]
  obtain ⟨hfmt, hplace, hmask⟩ := hpass hm
  obtain ⟨hfmt', hplace', hmask'⟩ := hpass hm'
  refine ⟨placeEffect params (fmtEffect params s), maskEffect (fmtEffect params s), fmtEffect params s,
    run_pair nofun nofun hs hfmt hplace', ?_, run_pair nofun nofun hs hfmt hmask', ?_, ?_, ?_⟩
  · rw [← fmtEffect_placeEffect hregs hfit hm]
    exact run_pair nofun nofun hs hplace (hpass (t := placeEffect params s) hm).1
  · rw [← fmtEffect_maskEffect hregs hfit hm]
    exact run_pair nofun nofun hs hmask (hpass (t := maskEffect s) hm).1
  · simp only [run, exec_fmt hs hm]
  · rw [run_pair (i := .fmt) (j := .fmt) nofun nofun hs hfmt hfmt', effectOf, effectOf, fmtEffect_fmtEffect hregs hfit]

end Sys2Proof.Machine
end

section
/-! The system commands and the step (rules R160 to R164, R195): a step always has a next state, RESET restores the
reset values, NOP does nothing, and RDREG copies a register, which is the number its fields make up. -/

namespace Sys2Proof.Machine

open Sys2Proof.Claim

variable {s : State}

/-! ### One step -/

/-- Settles O5: the step takes the first event off the list and executes the command its word decodes to. -/
theorem stepRunsTheDecodedCommand : Obligations.StepRunsTheDecodedCommand := by
  intro s w rest i hp hw
  rw [step_of_command hp, hw]

/-- No command of any instance ends a run (rule R175). -/
theorem execOf_isNext (P : Params) (i : Instr) (s : State) : ∃ t, execOf P i s = .next t := by
  cases i with
  | reset => exact ⟨_, rfl⟩
  | _ =>
    dsimp only [execOf]
    exact command_isNext _ _ s

theorem stepOf_of_nothing (P : Params) (h : s.pending = []) : stepOf P s = .next s := by
  simp [stepOf, hostStep, nextEvent, h]

/-- Settles O8: no command of any instance ends a run, so no step of it does, and the core is the default instance. -/
theorem everyStepHasANextState : Obligations.EveryStepHasANextState := by
  have hany : ∀ (P : Params) (s : State), (∃ t, stepOf P s = .next t) ∧ (s.pending = [] → stepOf P s = .next s) :=
    fun P s => ⟨hostStep_isNext (execOf_isNext P) s, stepOf_of_nothing P⟩
  intro s
  refine ⟨?_, step_of_nothing, stepOf_params s, fun P => hany P s⟩
  rw [← stepOf_params]
  exact (hany params s).1

/-! ### RESET and NOP -/

/-- RESET and the reset input leave the reset state but for the list of pending events (rules R161, R195). -/
theorem atReset_resetCore (s : State) : AtReset (resetCore s) := resetStateHoldsTheResetValues

/-- Settles O10: the command, its word and the reset input are the one operation `resetCore`, in every state. -/
theorem resetCommandAndInputRestoreEverything : Obligations.ResetCommandAndInputRestoreEverything := by
  have hword : decode 0x04000000#32 = some .reset := by decide
  refine fun s => ⟨⟨_, rfl, atReset_resetCore s⟩, fun rest hp => ⟨_, ?_, atReset_resetCore { s with pending := rest }⟩,
    fun rest hp => ⟨_, step_of_resetInput hp, atReset_resetCore _⟩⟩
  exact stepRunsTheDecodedCommand s _ rest _ hp hword

/-- Settles O15: NOP tests nothing and its effect is the identity, so ignoring it and performing it are the same. -/
theorem nopDoesNothing : Obligations.NopDoesNothing := by
  refine ⟨fun s => ?_, by decide⟩
  cases hs : s.fault with
  | true => exact command_of_faulted (tests := []) (effect := id) hs
  | false => exact command_of_no_test hs (List.forall_mem_nil _)

/-! ### RDREG -/

/-- Concatenated words as a number: the left one stands above the right one. -/
theorem toNat_append_eq_add {m n : Nat} (x : BitVec m) (y : BitVec n) :
    (x ++ y).toNat = 2 ^ n * x.toNat + y.toNat := by
  rw [BitVec.toNat_append, ← Nat.shiftLeft_add_eq_or_of_lt y.isLt, Nat.shiftLeft_eq, Nat.mul_comm]

theorem toNat_status (s : State) : s.status.toNat = statusValue s := by
  rw [State.status]
  change BitVec.toNat (w := 1 + 6 + 1 + 1 + 1 + 1 + 1 + 1 + 1 + 1 + 1) _ = _
  simp only [toNat_append_eq_add, BitVec.toNat_ofBool, BitVec.toNat_ofNat, statusValue]
  omega

theorem toNat_walk (s : State) : s.walk.toNat = walkValue s := by
  rw [State.walk]
  change BitVec.toNat (w := 1 + 1 + 6 + 6) _ = _
  simp only [toNat_append_eq_add, BitVec.toNat_ofBool, walkValue]
  omega

/-- The side of a symbol fits the 6 bits of SIZE (rules R12, R162). -/
theorem toNat_sizeReg (h10 : s.ver.toNat ≤ 10) :
    s.sizeReg.toNat = if s.verv then 17 + 4 * s.ver.toNat else 0 := by
  have hfits : s.size % 2 ^ 6 = 17 + 4 * s.ver.toNat := by
    rw [State.size, side]
    omega
  rw [State.sizeReg]
  split
  · rw [BitVec.toNat_ofNat, hfits]
  · rfl

/-- The register RDREG k copies is the number rule R162 gives. -/
theorem register_eq_ofNat (h10 : s.ver.toNat ≤ 10) {k : Nat} (hk : k ≤ 6) :
    s.register k = BitVec.ofNat 32 (registerValue s k) := by
  have widened {w n : Nat} {x : BitVec w} (hx : x.toNat = n) : x.setWidth 32 = BitVec.ofNat 32 n := by
    rw [← hx, BitVec.ofNat_toNat]
  match k, hk with
  | 0, _ => exact widened (toNat_status s)
  | 1, _ | 2, _ | 3, _ | 4, _ => exact widened rfl
  | 5, _ => exact widened (toNat_walk s)
  | 6, _ => exact widened (toNat_sizeReg h10)

/-- Settles O17: the one test of RDREG, and the registers as the numbers of rule R162. -/
theorem rdregCopiesTheRegister : Obligations.RdregCopiesTheRegister := by
  intro a s hs hregs
  refine ⟨?_, fun ha => ?_, fun ha => ?_⟩
  · rw [encode, toNat_packWord]
    rfl
  · rw [← register_eq_ofNat (ver_le_of_registersOk hregs) ha]
    exact exec_of_passes (i := .rdreg a) nofun hs (by simp [Passes, testsOf, above, ha])
  · exact raises_of_first_test (i := .rdreg a) nofun hs rfl (by simp [above, ha])

end Sys2Proof.Machine
end

section
/-! The renderer (rule R170): its rectangles are those of the dark modules, each once. -/

namespace Sys2Proof.Machine

/-- Modules of a positive size do not share a rectangle. -/
theorem moduleRect_injective {px : Nat} (hpx : 0 < px) : Function.Injective (moduleRect px) := by
  intro p q h
  obtain ⟨hx, hy⟩ : (p.2 + quietZone) * px = (q.2 + quietZone) * px ∧ (p.1 + quietZone) * px = (q.1 + quietZone) * px :=
    ⟨congrArg Rect.x h, congrArg Rect.y h⟩
  exact Prod.ext (Nat.add_right_cancel (Nat.eq_of_mul_eq_mul_right hpx hy))
    (Nat.add_right_cancel (Nat.eq_of_mul_eq_mul_right hpx hx))

/-- Settles O60: the list of the dark cells of the square, which has no repeats, mapped to their rectangles. -/
theorem renderDrawsOneRectanglePerDarkModule : Obligations.RenderDrawsOneRectanglePerDarkModule := by
  refine ⟨fun size M => ⟨rfl, rfl⟩, fun size px M hpx => ?_⟩
  refine ⟨_, ((square size).filter (fun p => M p.1 p.2)).map (moduleRect px), if_neg hpx.ne', rfl, rfl, rfl,
    ((nodup_square size).filter _).map (moduleRect_injective hpx), fun q => ?_⟩
  simp only [List.mem_map, List.mem_filter, Prod.exists, mem_square, and_assoc, moduleRect, quietZone, eq_comm (a := q)]

end Sys2Proof.Machine
end

section
/-! ENCODE and the unit sequence (rules R165, R166): each unit of the sequence passes its own tests, so the units do one
after the other what ENCODE does at once, in every instance that meets rule R7. -/

namespace Sys2Proof.Machine

open Sys2Proof.Claim

variable {P : Params} {s t : State}

/-! ### What RSENC leaves for the units after it -/

@[simp] theorem rsencEffect_fault (P : Params) (s : State) : (rsencEffect P s).fault = s.fault := by
  obtain ⟨_, _, _, hframe⟩ := rsencEffect_frame P s
  rw [hframe]

@[simp] theorem rsencEffect_verv (P : Params) (s : State) : (rsencEffect P s).verv = s.verv := by
  obtain ⟨_, _, _, hframe⟩ := rsencEffect_frame P s
  rw [hframe]

@[simp] theorem rsencEffect_ver (P : Params) (s : State) : (rsencEffect P s).ver = s.ver := by
  obtain ⟨_, _, _, hframe⟩ := rsencEffect_frame P s
  rw [hframe]

/-! ### The version of ENCODE -/

/-- The version VSEL selects in the core with parameters P (rule R109). -/
def versionOf (P : Params) (s : State) : Nat := (selectVersion P s.len.toNat).1

theorem versionOf_bounds (hP : P.ok = true) (s : State) : 1 ≤ versionOf P s ∧ versionOf P s ≤ 10 := by
  obtain ⟨h1, h10, -⟩ := isSelected_selectVersion hP s.len.toNat
  exact ⟨h1, h10⟩

theorem le_cap_versionOf (hP : P.ok = true) (hlen : s.len.toNat ≤ P.cap 10) : s.len.toNat ≤ P.cap (versionOf P s) := by
  obtain ⟨-, -, hfit⟩ := isSelected_selectVersion hP s.len.toNat
  rw [if_pos hlen] at hfit
  exact hfit.1

theorem toNat_ver_vselEffect (hP : P.ok = true) (s : State) : (vselEffect P s).ver.toNat = versionOf P s := by
  have hv := versionOf_bounds hP s
  exact (BitVec.toNat_ofNat _ _).trans (Nat.mod_eq_of_lt (by rw [versionOf] at hv; omega))

/-! ### The unit sequence -/

theorem runOf_cons {i : Instr} {rest : List Instr} {u : Option State} (h : execOf P i s = .next t)
    (hrest : runOf P rest t = u) : runOf P (i :: rest) s = u := by
  rw [runOf, h]
  exact hrest

theorem runOf_params (l : List Instr) (s : State) : runOf params l s = run l s := by
  induction l generalizing s with
  | nil => rfl
  | cons i rest ih =>
    rw [runOf, run, execOf_params]
    simp only [ih]

theorem execOf_encode (hs : Ready s) (hlen : s.len.toNat ≤ P.cap 10) :
    execOf P .encode s = .next (encodeEffect P s) := command_of_no_test hs (by simpa [above] using hlen)

theorem execOf_gfinit (P : Params) (hs : Ready s) : execOf P .gfinit s = .next (gfinitEffect s) :=
  command_of_no_test hs (List.forall_mem_nil _)

theorem execOf_rsenc (P : Params) (hs : Ready s) (ht : s.tblv = true) (hv : s.verv = true) :
    execOf P .rsenc s = .next (rsencEffect P s) := command_of_no_test hs (by simp [ht, hv])

theorem execOf_mbuild (P : Params) (hs : Ready s) (hv : s.verv = true) :
    execOf P .mbuild s = .next (mbuildEffect P s) := command_of_no_test hs (by simp [hv])

theorem execOf_place (P : Params) (hs : Ready s) (hm : s.matv = true) :
    execOf P .place s = .next (placeEffect P s) := command_of_no_test hs (by simp [hm])

theorem execOf_mask (P : Params) (hs : Ready s) (hm : s.matv = true) : execOf P .mask s = .next (maskEffect s) :=
  command_of_no_test hs (by simp [hm])

theorem execOf_fmt (P : Params) (hs : Ready s) (hm : s.matv = true) : execOf P .fmt s = .next (fmtEffect P s) :=
  command_of_no_test hs (by simp [hm])

/-- The eight units, one after the other, make up ENCODE: GFINIT sets TBLV, VSEL sets VERV and selects a version that
holds the payload, MBUILD sets MATV, and no unit clears what a later one needs. -/
theorem runOf_pipeline (hP : P.ok = true) (hs : Ready s) (hlen : s.len.toNat ≤ P.cap 10) :
    runOf P pipeline s = some (encodeEffect P s) := by
  have hfit : s.len.toNat ≤ P.cap (vselEffect P (gfinitEffect s)).ver.toNat :=
    toNat_ver_vselEffect hP (gfinitEffect s) ▸ le_cap_versionOf hP hlen
  have hready : Ready (rsencEffect P (packEffect P (vselEffect P (gfinitEffect s)))) := (rsencEffect_fault _ _).trans hs
  have hverv : (rsencEffect P (packEffect P (vselEffect P (gfinitEffect s)))).verv = true := rsencEffect_verv _ _
  exact runOf_cons (execOf_gfinit P hs) <| runOf_cons (execOf_vsel_of_ready P hs) <|
    runOf_cons (execOf_pack hs rfl hfit) <| runOf_cons (execOf_rsenc P hs rfl rfl) <|
    runOf_cons (execOf_mbuild P hready hverv) <| runOf_cons (execOf_place P hready rfl) <|
    runOf_cons (execOf_mask P hready rfl) <| runOf_cons (execOf_fmt P hready rfl) rfl

/-- Settles O51: the sequence for every instance, and the core as the default instance. -/
theorem encodeIsTheUnitSequence : Obligations.EncodeIsTheUnitSequence := by
  have hany : ∀ P : Params, P.ok = true → ∀ s : State, Ready s → s.len.toNat ≤ P.cap 10 →
      ∃ t, execOf P .encode s = .next t ∧ runOf P pipeline s = some t :=
    fun P hP s hs hlen => ⟨_, execOf_encode hs hlen, runOf_pipeline hP hs hlen⟩
  refine ⟨fun s hs hlen => ?_, hany⟩
  rw [← execOf_params, ← runOf_params]
  exact hany params params_ok s hs hlen

end Sys2Proof.Machine
end

section
/-! The stores of ENCODE (rule R165): the tables, the generator, the register and the codewords in closed form, from LEN
and PAY alone, and the cells beyond them, which ENCODE leaves alone. -/

namespace Sys2Proof.Machine

open Sys2Proof.Claim

variable {P : Params} {s t : State}

/-! ### The units of ENCODE up to the codewords, and the rest -/

/-- ENCODE when the payload is packed: GFINIT, VSEL, PACK. -/
def packedState (P : Params) (s : State) : State := packEffect P (vselEffect P (gfinitEffect s))

/-- ENCODE when the codewords are complete: RSENC has followed. -/
def codedState (P : Params) (s : State) : State := rsencEffect P (packedState P s)

/-- The matrix units, in the order of rule R165. -/
def matrixUnits (P : Params) (s : State) : State := fmtEffect P (maskEffect (placeEffect P (mbuildEffect P s)))

theorem encodeEffect_eq_matrixUnits (P : Params) (s : State) : encodeEffect P s = matrixUnits P (codedState P s) := rfl

/-- The matrix units write MAT, its flags and the walker (rules R126, R144, R146, R156). -/
theorem matrixUnits_frame (P : Params) (s : State) :
    ∃ m, matrixUnits P s = { s with mat := m, matv := true, masked := true, wright := 1, wi := 0, wj := false,
                                    wup := true, wact := false, wdone := true } := by
  obtain ⟨m, hfmt⟩ := fmtEffect_frame P (maskEffect (placeEffect P (mbuildEffect P s)))
  exact ⟨m, hfmt⟩

@[simp] theorem packedState_exp (P : Params) (s : State) : (packedState P s).exp = (buildTables s.exp s.log).1 := by
  simp only [packedState, packEffect, vselEffect, State.setRes_exp, writeVersion_exp, gfinitEffect_exp]

@[simp] theorem packedState_log (P : Params) (s : State) : (packedState P s).log = (buildTables s.exp s.log).2 := by
  simp only [packedState, packEffect, vselEffect, State.setRes_log, writeVersion_log, gfinitEffect_log]

@[simp] theorem codedState_exp (P : Params) (s : State) : (codedState P s).exp = (buildTables s.exp s.log).1 := by
  obtain ⟨_, _, _, hframe⟩ := rsencEffect_frame P (packedState P s)
  simp only [codedState, hframe, packedState_exp]

@[simp] theorem codedState_log (P : Params) (s : State) : (codedState P s).log = (buildTables s.exp s.log).2 := by
  obtain ⟨_, _, _, hframe⟩ := rsencEffect_frame P (packedState P s)
  simp only [codedState, hframe, packedState_log]

@[simp] theorem codedState_mat (P : Params) (s : State) : (codedState P s).mat = s.mat := by
  obtain ⟨_, _, _, hframe⟩ := rsencEffect_frame P (packedState P s)
  simp only [codedState, hframe]
  rfl

theorem toNat_ver_packedState (hP : P.ok = true) (s : State) : (packedState P s).ver.toNat = versionOf P s :=
  toNat_ver_vselEffect hP (gfinitEffect s)

theorem toNat_ver_codedState (hP : P.ok = true) (s : State) : (codedState P s).ver.toNat = versionOf P s := by
  rw [codedState, rsencEffect_ver, toNat_ver_packedState hP]

/-! ### RSENC, store by store -/

@[simp] theorem rsgenEffect_exp (n : Nat) (s : State) : (rsgenEffect n s).exp = s.exp := rfl

@[simp] theorem rsgenEffect_log (n : Nat) (s : State) : (rsgenEffect n s).log = s.log := rfl

section
variable (hn1 : 1 ≤ P.ecc s.ver.toNat) (hn : P.ecc s.ver.toNat ≤ 255)
include hn

theorem read_rsencEffect_gen (j : Nat) :
    Memory.read (rsencEffect P s).gen j =
      if j ≤ P.ecc s.ver.toNat then generatorCoeff s.exp s.log (P.ecc s.ver.toNat) j else Memory.read s.gen j := by
  rw [rsencEffect_eq P hn]
  exact read_buildGenerator s.exp s.log _ s.gen j

theorem rsencEffect_reg :
    (rsencEffect P s).reg = feedRegister (rsgenEffect (P.ecc s.ver.toNat) s) (P.ecc s.ver.toNat)
      (dataSegment s (P.data s.ver.toNat)) := by
  rw [rsencEffect_eq P hn]
  rfl

theorem read_rsencEffect_cw_of_check {j : Nat} (hj : j < P.ecc s.ver.toNat) :
    Memory.read (rsencEffect P s).cw (P.data s.ver.toNat + j) = Memory.read (rsencEffect P s).reg j := by
  rw [rsencEffect_eq P hn]
  exact read_storeCheckBytes_of_lt hj

theorem read_rsencEffect_cw_of_not_check {k : Nat}
    (hk : k < P.data s.ver.toNat ∨ P.data s.ver.toNat + P.ecc s.ver.toNat ≤ k) :
    Memory.read (rsencEffect P s).cw k = Memory.read s.cw k := by
  rw [rsencEffect_eq P hn]
  exact read_storeCheckBytes_of_not_check hk

include hn1 in
theorem read_rsencEffect_reg_of_le {j : Nat} (hj : P.ecc s.ver.toNat ≤ j) :
    Memory.read (rsencEffect P s).reg j = Memory.read s.reg j := by
  rw [rsencEffect_reg hn, read_feedRegister_of_le hn1 _ hj]
  rfl

end

/-! ### The tables -/

/-- The generator polynomial does not depend on what EXP and LOG held before GFINIT (rules R81, R91). -/
theorem generatorCoeff_buildTables (exp log : Memory Byte) {n j : Nat} (hn : n ≤ 255) (hj : j ≤ n) :
    generatorCoeff (buildTables exp log).1 (buildTables exp log).2 n j =
      generatorCoeff (buildTables [] []).1 (buildTables [] []).2 n j := by
  have hagree := AgreeUpTo.buildGenerator (fun i hi => read_buildTables_exp_eq exp log hi)
    (fun v h1 hv => read_buildTables_log_eq exp log h1 hv) hn [] [] j hj
  rwa [read_buildGenerator, read_buildGenerator, if_pos hj, if_pos hj] at hagree

/-- Nor does the long division by a given polynomial (rules R81, R93). -/
theorem remainder_buildTables (exp log : Memory Byte) (g : Nat → Byte) (n : Nat) (data : List Byte) :
    remainder (buildTables exp log).1 (buildTables exp log).2 g n data =
      remainder (buildTables [] []).1 (buildTables [] []).2 g n data := by
  have hrow : divisionRow (buildTables exp log).1 (buildTables exp log).2 g n =
      divisionRow (buildTables [] []).1 (buildTables [] []).2 g n := by
    funext r d j
    simp only [divisionRow, gfmul_buildTables]
  rw [remainder, remainder, hrow]

/-! ### The codewords of a payload -/

/-- Data codeword k of the payload in s (rules R112, R113). -/
def dataByte (P : Params) (s : State) (k : Nat) : Byte :=
  sliceByte (bitStream P (versionOf P s) s.len.toNat s.pay) k

/-- Coefficient j of the generator polynomial of degree n (rule R90), on the tables GFINIT builds. -/
def generatorByte (n j : Nat) : Byte := generatorCoeff (buildTables [] []).1 (buildTables [] []).2 n j

theorem generatorCoeff_packedState (P : Params) (s : State) {n j : Nat} (hn : n ≤ 255) (hj : j ≤ n) :
    generatorCoeff (packedState P s).exp (packedState P s).log n j = generatorByte n j := by
  rw [packedState_exp, packedState_log, generatorCoeff_buildTables s.exp s.log hn hj, generatorByte]

/-- Check codeword j of the payload in s: the remainder of its data codewords (rules R90, R96). -/
def checkByte (P : Params) (s : State) (j : Nat) : Byte :=
  remainder (buildTables [] []).1 (buildTables [] []).2 (generatorByte (P.ecc (versionOf P s))) (P.ecc (versionOf P s))
    ((List.range (P.data (versionOf P s))).map (dataByte P s)) j

theorem dataSegment_packedState (hP : P.ok = true) (s : State) :
    dataSegment (packedState P s) (P.data (versionOf P s)) =
      (List.range (P.data (versionOf P s))).map (dataByte P s) := by
  refine List.map_congr_left fun k hk => ?_
  have hver := toNat_ver_vselEffect hP (gfinitEffect s)
  rw [packedState, read_packEffect_cw, hver]
  exact if_pos (List.mem_range.1 hk)

/-! ### The stores of the coded state -/

section
variable (hP : P.ok = true)
include hP

theorem ecc_versionOf_bounds (s : State) : 1 ≤ P.ecc (versionOf P s) ∧ P.ecc (versionOf P s) ≤ 255 := by
  obtain ⟨h1, h10⟩ := versionOf_bounds hP s
  exact Params.ecc_bounds hP h1 h10

theorem total_versionOf (s : State) :
    P.total (versionOf P s) = P.data (versionOf P s) + P.ecc (versionOf P s) := by
  obtain ⟨h1, h10⟩ := versionOf_bounds hP s
  exact Params.total_eq hP h1 h10

theorem read_codedState_gen (s : State) (j : Nat) :
    Memory.read (codedState P s).gen j =
      if j ≤ P.ecc (versionOf P s) then generatorByte (P.ecc (versionOf P s)) j else Memory.read s.gen j := by
  obtain ⟨-, h255⟩ := ecc_versionOf_bounds hP s
  have hver := toNat_ver_packedState hP s
  rw [codedState, read_rsencEffect_gen (by rwa [hver]), hver]
  exact if_ctx_congr Iff.rfl (generatorCoeff_packedState P s h255) fun _ => rfl

theorem read_codedState_reg (s : State) (j : Nat) :
    Memory.read (codedState P s).reg j =
      if j < P.ecc (versionOf P s) then checkByte P s j else Memory.read s.reg j := by
  obtain ⟨h1, h255⟩ := ecc_versionOf_bounds hP s
  have hver := toNat_ver_packedState hP s
  split
  · next hj =>
    have hgen : ∀ i, i ≤ P.ecc (versionOf P s) →
        Memory.read (rsgenEffect (P.ecc (versionOf P s)) (packedState P s)).gen i =
          generatorByte (P.ecc (versionOf P s)) i := fun i hi =>
      (read_buildGenerator _ _ _ _ i).trans ((if_pos hi).trans (generatorCoeff_packedState P s h255 hi))
    rw [codedState, rsencEffect_reg (by rwa [hver]), hver, dataSegment_packedState hP,
      read_feedRegister_of_lt hgen _ hj, rsgenEffect_exp, rsgenEffect_log, packedState_exp, packedState_log,
      remainder_buildTables, checkByte]
  · next hj => exact read_rsencEffect_reg_of_le (by rwa [hver]) (by rwa [hver]) (by rw [hver]; omega)

theorem read_codedState_cw (s : State) (k : Nat) :
    Memory.read (codedState P s).cw k =
      if k < P.data (versionOf P s) then dataByte P s k
      else if k < P.total (versionOf P s) then checkByte P s (k - P.data (versionOf P s))
      else Memory.read s.cw k := by
  obtain ⟨-, h255⟩ := ecc_versionOf_bounds hP s
  have htotal := total_versionOf hP s
  have hver := toNat_ver_packedState hP s
  have hpack : Memory.read (packedState P s).cw k =
      if k < P.data (versionOf P s) then dataByte P s k else Memory.read s.cw k := by
    rw [packedState, read_packEffect_cw, toNat_ver_vselEffect hP]
    rfl
  by_cases hcheck : P.data (versionOf P s) ≤ k ∧ k < P.total (versionOf P s)
  · obtain ⟨j, rfl⟩ := Nat.exists_eq_add_of_le hcheck.1
    have hj : j < P.ecc (packedState P s).ver.toNat := by rw [hver]; omega
    have hread := read_rsencEffect_cw_of_check (by rwa [hver]) hj
    rw [hver] at hread
    rw [codedState, hread, if_neg (by omega), if_pos hcheck.2, Nat.add_sub_cancel_left]
    exact (read_codedState_reg hP s j).trans (if_pos (hver ▸ hj))
  · rw [codedState, read_rsencEffect_cw_of_not_check (by rwa [hver]) (by rw [hver]; omega), hpack]
    split
    · rfl
    · rw [if_neg (by omega)]

end

end Sys2Proof.Machine
end

section
/-! The symbol of ENCODE (rules R165 to R168): every cell of the square in closed form, from the version, the place and
one bit of the codewords; the cells outside it, which ENCODE leaves alone. -/

namespace Sys2Proof.Machine

open Sys2Proof.Claim

variable {s : State} {v r c : Nat}

/-! ### The matrix units, for a version in 1..10 whatever the other registers hold -/

theorem side_bounds (h1 : 1 ≤ v) (h10 : v ≤ 10) : 17 ≤ side v ∧ side v ≤ Config.matDim ∧ side v % 2 = 1 := by
  simp only [side, Config.matDim]
  omega

/-- FMT reads VER and MAT only, so what it leaves is what it leaves in a core just reset that holds the two. -/
theorem cellAt_fmtEffect_of_ver (h1 : 1 ≤ s.ver.toNat) (h10 : s.ver.toNat ≤ 10) (hc : c < Config.matDim) :
    cellAt (fmtEffect params s).mat r c =
      if r < s.size ∧ c < s.size then formattedCell params s.size r c (cellAt s.mat r c) else cellAt s.mat r c := by
  have hregs : (writeVersion s.ver false State.reset).registersOk = true :=
    registersOk_writeVersion h1 h10 nofun invariantsHoldAtReset.registers
  have hcell := cellAt_fmtEffect params (s := { writeVersion s.ver false State.reset with mat := s.mat }) (r := r)
    hregs hc
  rw [fmtEffect_mat] at hcell ⊢
  exact hcell

/-- MASK and then FMT, cell by cell (rules R146, R156). -/
theorem cellAt_fmtEffect_maskEffect (h1 : 1 ≤ s.ver.toNat) (h10 : s.ver.toNat ≤ 10) (hc : c < Config.matDim) :
    cellAt (fmtEffect params (maskEffect s)).mat r c =
      if r < s.size ∧ c < s.size then formattedCell params s.size r c (flippedCell r c (cellAt s.mat r c))
      else cellAt s.mat r c := by
  obtain ⟨-, hn, -⟩ := side_bounds h1 h10
  rw [cellAt_fmtEffect_of_ver (s := maskEffect s) h1 h10 hc, cellAt_maskEffect hn hc, maskEffect_size]
  split <;> rfl

/-! ### The skeleton -/

/-- A cell of the skeleton is structural, unset outside column 6, or reserved among the format cells (rule R126). -/
theorem skeletonCell_cases (v r c : Nat) :
    (skeletonCell v r c).cls = .S ∨ (skeletonCell v r c = ⟨.U, false⟩ ∧ c ≠ 6) ∨
      (skeletonCell v r c = ⟨.R, false⟩ ∧ isFormatCell (side v) r c = true) := by
  unfold skeletonCell
  dsimp only
  split_ifs <;> simp_all [side]

/-- The number of the bit that the k-th visited cell takes, if the skeleton of version v leaves it unset (rule R144). -/
def skeletonBitNumber (v k : Nat) : Nat :=
  (List.range k).countP fun m => decide ((skeletonCell v (visited (side v) m).1 (visited (side v) m).2).cls = .U)

/-- The visited cells lie in the square, so MAT before MBUILD does not matter. -/
theorem cellAt_buildSkeleton_visited (h1 : 1 ≤ v) (h10 : v ≤ 10) (mat : Memory MCell) {k : Nat}
    (hk : k < side v * (side v - 1)) :
    cellAt (buildSkeleton params v mat) (visited (side v) k).1 (visited (side v) k).2 =
      skeletonCell v (visited (side v) k).1 (visited (side v) k).2 := by
  obtain ⟨hlow, hn, hodd⟩ := side_bounds h1 h10
  obtain ⟨hr, hc, -⟩ :
      (visited (side v) k).1 < side v ∧ (visited (side v) k).2 < side v ∧ (visited (side v) k).2 ≠ 6 :=
    (exists_visited_iff (by omega) hodd).1 ⟨k, hk, rfl⟩
  exact cellAt_buildSkeleton mat hn hr hc

theorem bitNumber_buildSkeleton (h1 : 1 ≤ v) (h10 : v ≤ 10) (mat : Memory MCell) {k : Nat}
    (hk : k < side v * (side v - 1)) :
    bitNumber (buildSkeleton params v mat) (side v) k = skeletonBitNumber v k :=
  List.countP_congr fun j hj => by
    rw [visitedClass, cellAt_buildSkeleton_visited h1 h10 mat ((List.mem_range.1 hj).trans hk)]

/-- PLACE after MBUILD (rules R126, R144). -/
theorem placedUpTo_skeleton (h1 : 1 ≤ s.ver.toNat) (h10 : s.ver.toNat ≤ 10) :
    ∃ count, PlacedUpTo s.cw (8 * params.total s.ver.toNat) (side s.ver.toNat)
      (buildSkeleton params s.ver.toNat s.mat) (side s.ver.toNat * (side s.ver.toNat - 1))
      ((placeEffect params (mbuildEffect params s)).mat, count) := by
  obtain ⟨hlow, hn, hodd⟩ := side_bounds h1 h10
  have hmat : (placeEffect params (mbuildEffect params s)).mat =
      (placeFirst s.cw (8 * params.total s.ver.toNat) (side s.ver.toNat) (buildSkeleton params s.ver.toNat s.mat)
        (side s.ver.toNat * (side s.ver.toNat - 1))).1 := by
    rw [placeEffect_mat, mbuildEffect_mat]
    exact placeBits_eq_placeFirst (n := side s.ver.toNat) (by omega) hodd
  rw [hmat]
  exact ⟨_, placedUpTo_placeFirst (by omega) hodd hn le_rfl⟩

/-! ### The cells of the symbol -/

/-- The cell (r, c) of a symbol of version v, where a data cell shows the bit b (rules R126, R144, R146, R156). -/
def encodedCell (v r c : Nat) (b : Bool) : MCell :=
  if (skeletonCell v r c).cls = .U then ⟨.D, b ^^ decide ((r + c) % 2 = 0)⟩
  else if (skeletonCell v r c).cls = .R then ⟨.F, formatBit params (formatIndex (side v) r c)⟩
  else skeletonCell v r c

/-- The cell of the skeleton under PLACE, MASK and FMT. -/
theorem formattedCell_flippedCell_skeletonCell (v r c : Nat) (b : Bool) :
    formattedCell params (side v) r c
      (flippedCell r c (if (skeletonCell v r c).cls = .U then ⟨.D, b⟩ else skeletonCell v r c)) =
        encodedCell v r c b := by
  obtain hS | ⟨hU, -⟩ | ⟨hR, hformat⟩ := skeletonCell_cases v r c
  · simp [encodedCell, formattedCell, flippedCell, hS]
  · by_cases heven : (r + c) % 2 = 0 <;> simp [encodedCell, formattedCell, flippedCell, hU, heven]
  · simp [encodedCell, formattedCell, flippedCell, hR, hformat]

/-- PLACE fills the unset cells of the skeleton; which bit a cell takes depends on the version and the place alone. -/
theorem exists_cellAt_placeEffect (h1 : 1 ≤ v) (h10 : v ≤ 10) (hr : r < side v) (hc : c < side v) :
    ∃ p, ∀ s : State, s.ver.toNat = v → cellAt (placeEffect params (mbuildEffect params s)).mat r c =
      if (skeletonCell v r c).cls = .U then ⟨.D, placedBit s.cw (8 * params.total v) p⟩ else skeletonCell v r c := by
  obtain ⟨hlow, hn, hodd⟩ := side_bounds h1 h10
  have hvisited := exists_visited_iff (n := side v) (r := r) (c := c) (by omega) hodd
  by_cases h6 : c = 6
  · refine ⟨0, ?_⟩
    rintro s rfl
    obtain ⟨_, hplace⟩ := placedUpTo_skeleton h1 h10
    have hset : (skeletonCell s.ver.toNat r c).cls ≠ .U := by
      obtain hS | ⟨-, hne⟩ | ⟨hR, -⟩ := skeletonCell_cases s.ver.toNat r c
      · simp [hS]
      · exact absurd h6 hne
      · simp [hR]
    rw [hplace.ahead r c (hc.trans_le hn) fun k hk h => (hvisited.1 ⟨k, hk, h⟩).2.2 h6, if_neg hset,
      cellAt_buildSkeleton s.mat hn hr hc]
  · obtain ⟨k, hk, hcell⟩ := hvisited.2 ⟨hr, hc, h6⟩
    obtain ⟨rfl, rfl⟩ : (visited (side v) k).1 = r ∧ (visited (side v) k).2 = c := by simp [hcell]
    refine ⟨skeletonBitNumber v k, ?_⟩
    rintro s rfl
    obtain ⟨_, hplace⟩ := placedUpTo_skeleton h1 h10
    rw [hplace.behind k hk, placedCell, bitNumber_buildSkeleton h1 h10 s.mat hk, visitedClass,
      cellAt_buildSkeleton_visited h1 h10 s.mat hk]

/-- The cell after all four units. -/
theorem exists_cellAt_matrixUnits (h1 : 1 ≤ v) (h10 : v ≤ 10) (hr : r < side v) (hc : c < side v) :
    ∃ p, ∀ s : State, s.ver.toNat = v →
      cellAt (matrixUnits params s).mat r c = encodedCell v r c (placedBit s.cw (8 * params.total v) p) := by
  obtain ⟨p, hplaced⟩ := exists_cellAt_placeEffect h1 h10 hr hc
  obtain ⟨-, hn, -⟩ := side_bounds h1 h10
  refine ⟨p, ?_⟩
  rintro s rfl
  have hcell := cellAt_fmtEffect_maskEffect (s := placeEffect params (mbuildEffect params s)) (r := r) h1 h10
    (hc.trans_le hn)
  rw [hplaced s rfl] at hcell
  exact hcell.trans ((if_pos ⟨hr, hc⟩).trans (formattedCell_flippedCell_skeletonCell _ r c _))

/-- No matrix unit writes outside the square. -/
theorem cellAt_matrixUnits_of_not_square (h1 : 1 ≤ s.ver.toNat) (h10 : s.ver.toNat ≤ 10) (hc : c < Config.matDim)
    (hout : ¬ (r < s.size ∧ c < s.size)) : cellAt (matrixUnits params s).mat r c = cellAt s.mat r c := by
  obtain ⟨hlow, hn, hodd⟩ : 17 ≤ s.size ∧ s.size ≤ Config.matDim ∧ s.size % 2 = 1 := side_bounds h1 h10
  obtain ⟨_, hplace⟩ := placedUpTo_skeleton h1 h10
  have hvisited : ∀ k, k < s.size * (s.size - 1) → visited s.size k ≠ (r, c) := fun k hk h => by
    obtain ⟨hr, hc, -⟩ := (exists_visited_iff (by omega) hodd).1 ⟨k, hk, h⟩
    exact hout ⟨hr, hc⟩
  calc cellAt (matrixUnits params s).mat r c
      = cellAt (placeEffect params (mbuildEffect params s)).mat r c :=
        (cellAt_fmtEffect_maskEffect (s := placeEffect params (mbuildEffect params s)) h1 h10 hc).trans (if_neg hout)
    _ = cellAt (buildSkeleton params s.ver.toNat s.mat) r c := hplace.ahead r c hc hvisited
    _ = cellAt s.mat r c := cellAt_buildSkeleton_of_not_square s.mat hn hc hout

end Sys2Proof.Machine
end

section
/-! ENCODE as a whole (rules R165 to R168): what it leaves, what it leaves alone, what its results depend on, and that
repeating it changes nothing. -/

namespace Sys2Proof.Machine

open Sys2Proof.Claim

variable {P : Params} {s t : State}

/-! ### What ENCODE leaves -/

theorem exec_encode (hs : Ready s) (hlen : s.len.toNat ≤ params.cap 10) :
    exec .encode s = .next (encodeEffect params s) := execOf_params ▸ execOf_encode hs hlen

/-- The stores of ENCODE but for MAT are those of the coded state. -/
theorem encodeEffect_stores (P : Params) (s : State) :
    (encodeEffect P s).exp = (buildTables s.exp s.log).1 ∧ (encodeEffect P s).log = (buildTables s.exp s.log).2 ∧
      (encodeEffect P s).gen = (codedState P s).gen ∧ (encodeEffect P s).reg = (codedState P s).reg ∧
      (encodeEffect P s).cw = (codedState P s).cw := by
  obtain ⟨_, hframe⟩ := matrixUnits_frame P (codedState P s)
  simp only [encodeEffect_eq_matrixUnits, hframe, codedState_exp, codedState_log, and_self]

/-- Everything ENCODE leaves in the registers and flags, for a payload within the capacity (rule R165). -/
theorem encodeEffect_registers (hP : P.ok = true) (hlen : s.len.toNat ≤ P.cap 10) :
    ∃ e l g r c m, encodeEffect P s = { s with
      res := BitVec.ofNat 32 (versionOf P s), ver := BitVec.ofNat 4 (versionOf P s),
      genn := BitVec.ofNat 8 (P.ecc (versionOf P s)), tblv := true, genv := true, verv := true, matv := true,
      masked := true, ovf := false, chtrunc := truncates s, wright := 1, wi := 0, wj := false, wup := true,
      wact := false, wdone := true, exp := e, log := l, gen := g, reg := r, cw := c, mat := m } := by
  obtain ⟨e, l, g, r, c, m, hframe⟩ := encodeEffect_frame P s
  have hver : (BitVec.ofNat 4 (versionOf P s)).toNat = versionOf P s := toNat_ver_vselEffect hP s
  refine ⟨e, l, g, r, c, m, ?_⟩
  rw [hframe, selectVersion_overflow hP, decide_eq_false (Nat.not_lt.2 hlen), anyTruncated_eq_truncates, ← versionOf,
    hver]

/-- The cells beyond the ranges of rule R165: `t` holds what `s` held there. -/
structure KeepsBeyond (v : Nat) (s t : State) : Prop where
  exp : ∀ i, Config.expDepth ≤ i → Memory.read t.exp i = Memory.read s.exp i
  log : ∀ i, i = 0 ∨ Config.logDepth ≤ i → Memory.read t.log i = Memory.read s.log i
  gen : ∀ j, params.ecc v < j → Memory.read t.gen j = Memory.read s.gen j
  reg : ∀ j, params.ecc v ≤ j → Memory.read t.reg j = Memory.read s.reg j
  cw : ∀ k, params.total v ≤ k → Memory.read t.cw k = Memory.read s.cw k
  mat : ∀ i, (¬ ∃ r c, r < side v ∧ c < side v ∧ i = cellIndex r c) → Memory.read t.mat i = Memory.read s.mat i

theorem ver_codedState_bounds (s : State) :
    1 ≤ (codedState params s).ver.toNat ∧ (codedState params s).ver.toNat ≤ 10 := by
  rw [toNat_ver_codedState params_ok]
  exact versionOf_bounds params_ok s

/-- No matrix unit writes outside the square of the version, and no other unit writes MAT. -/
theorem read_encodeEffect_mat_of_not_square (s : State) {i : Nat}
    (hout : ¬ ∃ r c, r < side (versionOf params s) ∧ c < side (versionOf params s) ∧ i = cellIndex r c) :
    Memory.read (encodeEffect params s).mat i = Memory.read s.mat i := by
  obtain ⟨h1, h10⟩ := ver_codedState_bounds s
  obtain ⟨r, c, hc, rfl⟩ := exists_cellIndex i
  rw [← toNat_ver_codedState params_ok s] at hout
  have hcell := cellAt_matrixUnits_of_not_square h1 h10 hc fun ⟨hrow, hcol⟩ => hout ⟨r, c, hrow, hcol, rfl⟩
  rwa [codedState_mat] at hcell

theorem keepsBeyond_encodeEffect (s : State) : KeepsBeyond (versionOf params s) s (encodeEffect params s) := by
  obtain ⟨hexp, hlog, hgen, hreg, hcw⟩ := encodeEffect_stores params s
  have htotal := total_versionOf params_ok s
  constructor
  · intro i hi
    rw [hexp, read_buildTables_exp, if_neg (Nat.not_le.2 hi)]
  · intro i hi
    rw [hlog, read_buildTables_log_of_not_power _ _ hi]
  · intro j hj
    rw [hgen, read_codedState_gen params_ok, if_neg (Nat.not_le.2 hj)]
  · intro j hj
    rw [hreg, read_codedState_reg params_ok, if_neg (Nat.not_lt.2 hj)]
  · intro k hk
    rw [hcw, read_codedState_cw params_ok, if_neg (by omega), if_neg (by omega)]
  · exact fun i => read_encodeEffect_mat_of_not_square s

/-- Each cell of the square shows one bit of the codewords or none, by the version and its place. -/
theorem exists_cellAt_encodeEffect {v r c : Nat} (h1 : 1 ≤ v) (h10 : v ≤ 10) (hr : r < side v) (hc : c < side v) :
    ∃ p, ∀ s : State, versionOf params s = v → cellAt (encodeEffect params s).mat r c =
      encodedCell v r c (placedBit (codedState params s).cw (8 * params.total v) p) := by
  obtain ⟨p, hp⟩ := exists_cellAt_matrixUnits h1 h10 hr hc
  exact ⟨p, fun s hv => hp (codedState params s) ((toNat_ver_codedState params_ok s).trans hv)⟩

/-- STATUS after ENCODE (rule R16). -/
theorem status_encodeEffect (hs : Ready s) (hlen : s.len.toNat ≤ params.cap 10) :
    (encodeEffect params s).status = if truncates s then 0x015F#16 else 0x011F#16 := by
  obtain ⟨_, _, _, _, _, _, hframe⟩ := encodeEffect_registers params_ok hlen
  rw [hframe, State.status]
  simp only [show s.fault = false from hs]
  cases truncates s <;> rfl

/-- Which class a cell has, by the class the skeleton has there (rules R26, R168). -/
theorem encodedCell_cls (v r c : Nat) (b : Bool) :
    ((encodedCell v r c b).cls = .S ∨ (encodedCell v r c b).cls = .D ∨ (encodedCell v r c b).cls = .F) ∧
      ((encodedCell v r c b).cls = .S ↔ (skeletonCell v r c).cls = .S) ∧
      ((encodedCell v r c b).cls = .S → encodedCell v r c b = skeletonCell v r c) := by
  unfold encodedCell
  obtain hS | ⟨hU, -⟩ | ⟨hR, -⟩ := skeletonCell_cases v r c
  · simp [hS]
  · simp [hU]
  · simp [hR]

/-- Settles O50: the registers by the frame, the stores and the cells by their closed forms. -/
theorem encodeCompletesTheSymbol : Obligations.EncodeCompletesTheSymbol := by
  intro s hs hlen
  obtain ⟨h1, h10⟩ := versionOf_bounds params_ok s
  obtain ⟨hexp, hlog, hgen, hreg, hcw, hmat⟩ := keepsBeyond_encodeEffect s
  obtain ⟨_, _, _, _, _, _, hframe⟩ := encodeEffect_registers params_ok hlen
  refine ⟨_, versionOf params s, exec_encode hs hlen, isSelected_selectVersion params_ok _, ?ver, ?res, ?genn,
    ?walk, status_encodeEffect hs hlen, ?pay, ?len, ?err, ?pending, hexp, hlog, hgen, hreg, hcw, hmat,
    fun r c hr hc => ?cells⟩
  case cells =>
    obtain ⟨p, hp⟩ := exists_cellAt_encodeEffect h1 h10 hr hc
    rw [hp s rfl]
    exact encodedCell_cls _ r c _
  case walk =>
    rw [hframe]
    simp [State.walk]
  all_goals rw [hframe]

/-! ### What the results depend on -/

/-- The stream reads the used characters only (rules R112, R165). -/
theorem bitStream_congr {pay pay' : Memory Char16} {len : Nat}
    (h : ∀ k, k < len → Memory.read pay k = Memory.read pay' k) (P : Params) (v : Nat) :
    bitStream P v len pay = bitStream P v len pay' := by
  have hcontent : streamContent v len pay = streamContent v len pay' := by
    unfold streamContent
    rw [List.flatMap_congr fun k hk => by rw [payloadByte, h k (List.mem_range.1 hk), ← payloadByte]]
  rw [bitStream, bitStream, hcontent]

/-- Two cores hold the same payload: LEN, and the characters below it. -/
structure SamePayload (s t : State) : Prop where
  len : s.len = t.len
  pay : ∀ k, k < s.len.toNat → Memory.read s.pay k = Memory.read t.pay k

theorem versionOf_congr (hlen : s.len = t.len) : versionOf P s = versionOf P t := by rw [versionOf, versionOf, hlen]

theorem SamePayload.dataByte (h : SamePayload s t) : dataByte P s = dataByte P t := by
  funext k
  rw [Machine.dataByte, Machine.dataByte, bitStream_congr h.pay, versionOf_congr h.len, h.len]

theorem SamePayload.checkByte (h : SamePayload s t) : checkByte P s = checkByte P t := by
  funext j
  rw [Machine.checkByte, Machine.checkByte, h.dataByte, versionOf_congr h.len]

theorem SamePayload.truncates (h : SamePayload s t) : truncates s = truncates t := by
  unfold Claim.truncates
  rw [← h.len, Bool.eq_iff_iff, List.any_eq_true, List.any_eq_true]
  exact exists_congr fun k => and_congr_right fun hk => by rw [h.pay k (List.mem_range.1 hk)]

/-- The codewords of the symbol. -/
theorem SamePayload.read_cw (h : SamePayload s t) {k : Nat} (hk : k < params.total (versionOf params s)) :
    Memory.read (codedState params s).cw k = Memory.read (codedState params t).cw k := by
  rw [versionOf_congr h.len] at hk
  rw [read_codedState_cw params_ok, read_codedState_cw params_ok, h.dataByte, h.checkByte, versionOf_congr h.len]
  simp only [if_pos hk]

theorem SamePayload.placedBit (h : SamePayload s t) (p : Nat) :
    placedBit (codedState params s).cw (8 * params.total (versionOf params s)) p =
      placedBit (codedState params t).cw (8 * params.total (versionOf params s)) p := by
  unfold Machine.placedBit
  by_cases hp : p < 8 * params.total (versionOf params s)
  · rw [codewordBit, codewordBit, h.read_cw (by omega)]
  · rw [decide_eq_false hp, Bool.false_and, Bool.false_and]

theorem toNat_ver_encodeEffect (hlen : s.len.toNat ≤ params.cap 10) :
    (encodeEffect params s).ver.toNat = versionOf params s := by
  obtain ⟨_, _, _, _, _, _, hframe⟩ := encodeEffect_registers params_ok hlen
  rw [hframe]
  exact toNat_ver_vselEffect params_ok s

theorem toNat_genn_encodeEffect (hlen : s.len.toNat ≤ params.cap 10) :
    (encodeEffect params s).genn.toNat = params.ecc (versionOf params s) := by
  obtain ⟨_, _, _, _, _, _, hframe⟩ := encodeEffect_registers params_ok hlen
  obtain ⟨-, h255⟩ := ecc_versionOf_bounds params_ok s
  rw [hframe]
  exact (BitVec.toNat_ofNat _ _).trans (Nat.mod_eq_of_lt (by omega))

/-- The results of ENCODE, one by one (rule R165). -/
theorem SamePayload.sameResults (h : SamePayload s t) (hs : Ready s) (ht : Ready t)
    (hlen : s.len.toNat ≤ params.cap 10) : SameResults (encodeEffect params s) (encodeEffect params t) := by
  have hlen' : t.len.toNat ≤ params.cap 10 := h.len ▸ hlen
  have hv : versionOf params t = versionOf params s := (versionOf_congr h.len).symm
  obtain ⟨h1, h10⟩ := versionOf_bounds params_ok s
  obtain ⟨hexp, hlog, hgen, hreg, hcw⟩ := encodeEffect_stores params s
  obtain ⟨hexp', hlog', hgen', hreg', hcw'⟩ := encodeEffect_stores params t
  obtain ⟨_, _, _, _, _, _, hframe⟩ := encodeEffect_registers params_ok hlen
  obtain ⟨_, _, _, _, _, _, hframe'⟩ := encodeEffect_registers params_ok hlen'
  have hregisters : (encodeEffect params s).ver = (encodeEffect params t).ver ∧
      (encodeEffect params s).res = (encodeEffect params t).res ∧
      (encodeEffect params s).walk = (encodeEffect params t).walk ∧
      (encodeEffect params s).genn = (encodeEffect params t).genn := by
    rw [hframe, hframe', hv]
    exact ⟨rfl, rfl, rfl, rfl⟩
  obtain ⟨hver, hres, hwalk, hgenn⟩ := hregisters
  rw [SameResults, toNat_ver_encodeEffect hlen, toNat_genn_encodeEffect hlen, State.size, toNat_ver_encodeEffect hlen,
    status_encodeEffect hs hlen, status_encodeEffect ht hlen', h.truncates, hexp, hexp', hlog, hlog', hgen, hgen', hreg,
    hreg', hcw, hcw']
  refine ⟨hver, hres, rfl, hwalk, hgenn, fun k hk => h.read_cw hk, fun j hj => ?_, fun j hj => ?_, fun i hi => ?_,
    fun v h1 hv => ?_, fun r c hr hc => ?_⟩
  · rw [read_codedState_gen params_ok, read_codedState_gen params_ok, hv, if_pos hj, if_pos hj]
  · rw [read_codedState_reg params_ok, read_codedState_reg params_ok, hv, if_pos hj, if_pos hj, h.checkByte]
  · rw [read_buildTables_exp_eq _ _ hi, read_buildTables_exp_eq t.exp t.log hi]
  · rw [read_buildTables_log_eq _ _ h1 hv, read_buildTables_log_eq t.exp t.log h1 hv]
  · obtain ⟨p, hp⟩ := exists_cellAt_encodeEffect h1 h10 hr hc
    rw [hp s rfl, hp t hv, h.placedBit]

/-- Settles O52: the versions, the codewords and so all results are the same. -/
theorem encodeDependsOnThePayloadOnly : Obligations.EncodeDependsOnThePayloadOnly :=
  fun _ _ hs ht hlen hcap hpay => ⟨_, _, exec_encode hs hcap, exec_encode ht (hlen ▸ hcap),
    SamePayload.sameResults ⟨hlen, hpay⟩ hs ht hcap⟩

/-- Settles O54: the class of a cell, and the value of one that is no data cell, do not depend on the bit it
is given. -/
theorem equalLengthsDifferOnlyInDataCells : Obligations.EqualLengthsDifferOnlyInDataCells := by
  intro s t hs ht hlen hcap
  have hcap' : t.len.toNat ≤ params.cap 10 := hlen ▸ hcap
  obtain ⟨h1, h10⟩ := versionOf_bounds params_ok s
  have hver := toNat_ver_encodeEffect hcap
  refine ⟨_, _, exec_encode hs hcap, exec_encode ht hcap', ?_, fun r c hr hc => ?_⟩
  · rw [← BitVec.toNat_inj, hver, toNat_ver_encodeEffect hcap', versionOf_congr hlen]
  · rw [State.size, hver] at hr hc
    obtain ⟨p, hp⟩ := exists_cellAt_encodeEffect h1 h10 hr hc
    rw [hp s rfl, hp t (versionOf_congr hlen).symm]
    unfold encodedCell
    split_ifs <;> simp

/-! ### ENCODE twice -/

/-- The version is in 1..10 before the first unit that depends on it, so every unit writes legal indices, whatever the
registers held before. -/
theorem State.StoresFit.encode (h : s.StoresFit) : (encodeEffect params s).StoresFit := by
  obtain ⟨h1, h10⟩ : 1 ≤ (vselEffect params (gfinitEffect s)).ver.toNat ∧
      (vselEffect params (gfinitEffect s)).ver.toNat ≤ 10 := by
    rw [toNat_ver_vselEffect params_ok]
    exact versionOf_bounds params_ok (gfinitEffect s)
  have hpacked : (packedState params s).StoresFit :=
    storesFit_packEffect h1 h10 (storesFit_vselEffect params (storesFit_gfinitEffect h))
  exact storesFit_matrixUnits (ver_codedState_bounds s).2 (storesFit_rsencEffect h1 h10 hpacked)

/-- Two states with canonical stores that differ at most in the stores ENCODE writes, and not in what these read, are
one state. -/
theorem State.eq_of_stores (hs : s.StoresFit) (ht : t.StoresFit)
    (hframe : ∃ e l g r c m, t = { s with exp := e, log := l, gen := g, reg := r, cw := c, mat := m })
    (hexp : ∀ i, Memory.read t.exp i = Memory.read s.exp i) (hlog : ∀ i, Memory.read t.log i = Memory.read s.log i)
    (hgen : ∀ i, Memory.read t.gen i = Memory.read s.gen i) (hreg : ∀ i, Memory.read t.reg i = Memory.read s.reg i)
    (hcw : ∀ i, Memory.read t.cw i = Memory.read s.cw i) (hmat : ∀ i, Memory.read t.mat i = Memory.read s.mat i) :
    t = s := by
  obtain ⟨e, l, g, r, c, m, rfl⟩ := hframe
  obtain rfl : e = s.exp := Memory.ext_of_wf ht.exp.wf hs.exp.wf hexp
  obtain rfl : l = s.log := Memory.ext_of_wf ht.log.wf hs.log.wf hlog
  obtain rfl : g = s.gen := Memory.ext_of_wf ht.gen.wf hs.gen.wf hgen
  obtain rfl : r = s.reg := Memory.ext_of_wf ht.reg.wf hs.reg.wf hreg
  obtain rfl : c = s.cw := Memory.ext_of_wf ht.cw.wf hs.cw.wf hcw
  obtain rfl : m = s.mat := Memory.ext_of_wf ht.mat.wf hs.mat.wf hmat
  rfl

/-- ENCODE leaves the payload, and FAULT. -/
theorem samePayload_encodeEffect (P : Params) (s : State) :
    SamePayload s (encodeEffect P s) ∧ (encodeEffect P s).fault = s.fault := by
  obtain ⟨_, _, _, _, _, _, hframe⟩ := encodeEffect_frame P s
  rw [hframe]
  exact ⟨⟨rfl, fun _ _ => rfl⟩, rfl⟩

/-- The registers of a second ENCODE are those of the first. -/
theorem encodeEffect_encodeEffect_frame (hlen : s.len.toNat ≤ params.cap 10) :
    ∃ e l g r c m, encodeEffect params (encodeEffect params s) =
      { encodeEffect params s with exp := e, log := l, gen := g, reg := r, cw := c, mat := m } := by
  obtain ⟨hpayload, -⟩ := samePayload_encodeEffect params s
  obtain ⟨_, _, _, _, _, _, hframe⟩ := encodeEffect_registers params_ok hlen
  obtain ⟨e, l, g, r, c, m, hframe'⟩ := encodeEffect_registers params_ok (hpayload.len ▸ hlen)
  refine ⟨e, l, g, r, c, m, ?_⟩
  rw [hframe', ← versionOf_congr hpayload.len, ← hpayload.truncates, hframe]

/-- In its ranges a second ENCODE leaves the same results, beyond them it leaves what it finds. -/
theorem encodeEffect_encodeEffect (hs : Ready s) (hstores : s.StoresFit) (hlen : s.len.toNat ≤ params.cap 10) :
    encodeEffect params (encodeEffect params s) = encodeEffect params s := by
  obtain ⟨hpayload, hfault⟩ := samePayload_encodeEffect params s
  have hsame := hpayload.sameResults hs (hfault.trans hs) hlen
  have hkeep := keepsBeyond_encodeEffect (encodeEffect params s)
  rw [← versionOf_congr hpayload.len] at hkeep
  rw [SameResults, State.size, toNat_ver_encodeEffect hlen, toNat_genn_encodeEffect hlen] at hsame
  obtain ⟨-, -, -, -, -, hcw, hgen, hreg, hexp, hlog, hmat⟩ := hsame
  refine State.eq_of_stores hstores.encode hstores.encode.encode (encodeEffect_encodeEffect_frame hlen)
    ?_ ?_ ?_ ?_ ?_ ?_
  · exact fun i => (Nat.lt_or_ge i _).elim (fun hi => (hexp i hi).symm) (hkeep.exp i)
  · intro i
    by_cases hi : 1 ≤ i ∧ i < Config.logDepth
    · exact (hlog i hi.1 hi.2).symm
    · exact hkeep.log i (by omega)
  · exact fun j => (Nat.lt_or_ge _ j).elim (hkeep.gen j) fun hj => (hgen j hj).symm
  · exact fun j => (Nat.lt_or_ge j _).elim (fun hj => (hreg j hj).symm) (hkeep.reg j)
  · exact fun k => (Nat.lt_or_ge k _).elim (fun hk => (hcw k hk).symm) (hkeep.cw k)
  · intro i
    by_cases hi : ∃ r c, r < side (versionOf params s) ∧ c < side (versionOf params s) ∧ i = cellIndex r c
    · obtain ⟨r, c, hr, hc, rfl⟩ := hi
      exact (hmat r c hr hc).symm
    · exact hkeep.mat i hi

/-- Settles O53: the second ENCODE is performed, on the same payload, and leaves what it finds. -/
theorem encodeTwiceIsEncodeOnce : Obligations.EncodeTwiceIsEncodeOnce := by
  intro s hs hstores hlen
  obtain ⟨hpayload, hfault⟩ := samePayload_encodeEffect params s
  have hagain := encodeEffect_encodeEffect hs (storesOk_iff.1 hstores) hlen
  exact ⟨_, exec_encode hs hlen,
    (exec_encode (hfault.trans hs) (hpayload.len ▸ hlen)).trans (congrArg _ hagain)⟩

end Sys2Proof.Machine
end

section
/-! The tests of rule R177 in their order, read off the list each command makes, and the fault state that ignores every
word but RESET (rules R178 to R180). -/

namespace Sys2Proof.Machine

open Sys2Proof.Claim

variable {i : Instr} {s : State}

/-! ### The operand tests as comparisons -/

@[simp] theorem above_eq_true_iff {w : Nat} {x : BitVec w} {limit : Nat} : above x limit = true ↔ limit < x.toNat :=
  decide_eq_true_iff

@[simp] theorem atOrBeyond_eq_true_iff {w : Nat} {x : BitVec w} {bound : Nat} :
    atOrBeyond x bound = true ↔ bound ≤ x.toNat := decide_eq_true_iff

@[simp] theorem isZero_eq_true_iff {w : Nat} {x : BitVec w} : isZero x = true ↔ x = 0#w := by
  rw [isZero, decide_eq_true_iff, ← BitVec.toNat_inj, BitVec.toNat_zero]

/-! ### The first test that holds -/

/-- The fault of the first test that holds, or none (rule R177). -/
def firstFault (tests : List (Bool × FaultCode)) : Option FaultCode := (tests.find? (fun t => t.1)).map (fun t => t.2)

@[simp] theorem firstFault_nil : firstFault [] = none := rfl

@[simp] theorem firstFault_cons (b : Bool) (k : FaultCode) (rest : List (Bool × FaultCode)) :
    firstFault ((b, k) :: rest) = if b = true then some k else firstFault rest := by
  cases b <;> rfl

theorem exec_of_firstFault_eq_some (hi : i ≠ .reset) (hs : Ready s) {k : FaultCode}
    (hk : firstFault (testsOf s i) = some k) : exec i s = .next (raiseFault k s) := by
  obtain ⟨x, hx, rfl⟩ := Option.map_eq_some_iff.1 hk
  exact exec_of_test hi hs hx

theorem passes_of_firstFault_eq_none (h : firstFault (testsOf s i) = none) : Passes i s := fun x hx =>
  Bool.not_eq_true _ ▸ List.find?_eq_none.1 (Option.map_eq_none_iff.1 h) x hx

/-- The tests a command makes are those of the table, in the table's order. -/
theorem faultOf_eq_firstFault (i : Instr) (s : State) : faultOf i s = firstFault (testsOf s i) := by
  cases i with
  | nop | reset | gfinit | setlen | vsel => rfl
  | mrd => simp [faultOf, testsOf, State.size, side]
  | _ => simp [faultOf, testsOf]

theorem errCode_eq_code (k : FaultCode) : errCode k = k.code := by cases k <;> rfl

/-- Settles O11: a command makes the tests of the table in its order, the first that holds decides, and no effect sets
FAULT; RESET makes no test. -/
theorem faultsAreTheTestsOfTheTable : Obligations.FaultsAreTheTestsOfTheTable := by
  intro i s hs
  by_cases hi : i = .reset
  · subst hi
    exact ⟨nofun, fun _ => ⟨_, rfl, rfl⟩⟩
  · rw [faultOf_eq_firstFault]
    refine ⟨fun k hk => ?_, fun hnone => ?_⟩
    · rw [errCode_eq_code]
      exact exec_of_firstFault_eq_some hi hs hk
    · obtain ⟨hfault, -, -⟩ := effectOf_fault_err_pending hi s
      exact ⟨_, exec_of_passes hi hs (passes_of_firstFault_eq_none hnone), hfault.trans hs⟩

/-! ### The fault state -/

theorem exec_of_faulted (hi : i ≠ .reset) (hs : s.fault = true) : exec i s = .next s := by
  rw [exec_eq_command hi, command_of_faulted hs]

/-- Settles O7: an illegal word is ignored, and so is every command but RESET, which has the one word 0x04000000. -/
theorem faultedCoreIgnoresEveryOtherWord : Obligations.FaultedCoreIgnoresEveryOtherWord := by
  intro s w rest hs hp hne
  cases hw : decode w with
  | none =>
    rw [step_of_illegal hp hw]
    exact illegalWord_of_faulted hs
  | some i =>
    have hi : i ≠ .reset := fun h => hne (eq_reset_of_decode (h ▸ hw))
    rw [stepRunsTheDecodedCommand s w rest i hp hw]
    exact exec_of_faulted hi hs

end Sys2Proof.Machine
end
